-- ==== Sys2Proof/Word.lean ====
section
/-! DEFINITION. The words of the hardware: bytes, nibbles and 64-bit register or descriptor words
(00_scope.md R7, R8; 20_memory.md R46). -/

namespace Sys2Proof

/-- A byte, an integer in 0..255 (R8). -/
abbrev Byte := BitVec 8

/-- A nibble, an integer in 0..15 (R8). -/
abbrev Nibble := BitVec 4

/-- A register word or a descriptor word: bits 63..0, bit 0 the least significant (R7, R46). -/
abbrev Word64 := BitVec 64

end Sys2Proof
end

