-- ==== Sys2Proof/Config.lean ====
section
/-! DEFINITION. What the implementation fixes (00_scope.md R6). The spec leaves no value free
(93_implementation_defined.md, part 1), so nothing here is opaque. -/

namespace Sys2Proof.Config

/-- `CAP`, the memory capacity: 4 MiB (R6, R21). -/
def cap : Nat := 0x400000

/-- The number of bytes of a page (R6, R42). -/
def pageBytes : Nat := 8192

/-- The number of bytes of a block (R6, R42). -/
def blockBytes : Nat := 256

/-- The number of bytes of a column (R6, R43). -/
def columnBytes : Nat := 64

/-- `COORD_LIMIT`: the first coordinate beyond the range a transfer may reach (R6, R202). -/
def coordLimit : Nat := 2048

end Sys2Proof.Config
end

