-- ==== Sys2Proof/Syntax.lean ====
section
/-! DEFINITION. The operations of the block and their operands: the eight register records (30_encoding.md
R83 to R90), the operand groups of the descriptor words (R71 to R74), the 32 operations with their codes'
names and classes (R70, R77), and `Instr`, one constructor per row of the opcode table. Every field has
exactly the width the spec gives it, so a value too wide for its field does not exist (R75). -/

namespace Sys2Proof

/-- BITBLTBUF: source and destination buffer descriptors and formats (R83). -/
structure Bitbltbuf where
  sbp  : BitVec 14 := 0
  sbw  : BitVec 6 := 0
  spsm : BitVec 6 := 0
  dbp  : BitVec 14 := 0
  dbw  : BitVec 6 := 0
  dpsm : BitVec 6 := 0
  deriving DecidableEq, Repr

/-- TRXPOS: source and destination rectangle origins and the pixel transmission order (R84). -/
structure Trxpos where
  ssax : BitVec 11 := 0
  ssay : BitVec 11 := 0
  dsax : BitVec 11 := 0
  dsay : BitVec 11 := 0
  dir  : BitVec 2 := 0
  deriving DecidableEq, Repr

/-- TRXREG: the transfer rectangle's width and height (R85). -/
structure Trxreg where
  rrw : BitVec 12 := 0
  rrh : BitVec 12 := 0
  deriving DecidableEq, Repr

/-- TRXDIR: the transfer direction (R86). -/
structure Trxdir where
  xdir : BitVec 2 := 0
  deriving DecidableEq, Repr

/-- TEX0: the full texture descriptor (R87). -/
structure Tex0 where
  tbp0 : BitVec 14 := 0
  tbw  : BitVec 6 := 0
  psm  : BitVec 6 := 0
  tw   : BitVec 4 := 0
  th   : BitVec 4 := 0
  tcc  : BitVec 1 := 0
  tfx  : BitVec 2 := 0
  cbp  : BitVec 14 := 0
  cpsm : BitVec 4 := 0
  csm  : BitVec 1 := 0
  csa  : BitVec 5 := 0
  cld  : BitVec 3 := 0
  deriving DecidableEq, Repr

/-- CLAMP: wrap modes and clamp bounds per axis (R88). -/
structure Clamp where
  wms  : BitVec 2 := 0
  wmt  : BitVec 2 := 0
  minu : BitVec 10 := 0
  maxu : BitVec 10 := 0
  minv : BitVec 10 := 0
  maxv : BitVec 10 := 0
  deriving DecidableEq, Repr

/-- TEX1: MIP and LOD controls; `k` is the raw 12-bit pattern (R89). -/
structure Tex1 where
  lcm  : BitVec 1 := 0
  mxl  : BitVec 3 := 0
  mmag : BitVec 1 := 0
  mmin : BitVec 3 := 0
  mtba : BitVec 1 := 0
  l    : BitVec 2 := 0
  k    : BitVec 12 := 0
  deriving DecidableEq, Repr

/-- TEX2: the CLUT subset of TEX0, with PSM (R90; 90_conflicts.md C3). -/
structure Tex2 where
  psm  : BitVec 6 := 0
  cbp  : BitVec 14 := 0
  cpsm : BitVec 4 := 0
  csm  : BitVec 1 := 0
  csa  : BitVec 5 := 0
  cld  : BitVec 3 := 0
  deriving DecidableEq, Repr

/-- The operands of W1: buffer base in 256-byte blocks, buffer width in 64-texel units, and the origin in
texels (R72). For the ADR class `x`, `y` is the texel to translate. -/
structure Surface where
  bp : BitVec 14
  bw : BitVec 6
  x  : BitVec 11
  y  : BitVec 11
  deriving DecidableEq, Repr

/-- The operands of W2: the rectangle's width and height in texels (R73). -/
structure Extent where
  w : BitVec 12
  h : BitVec 12
  deriving DecidableEq, Repr

/-- The operands of W3: CLUT base in blocks and CLUT buffer width in 64-texel units (R74). -/
structure ClutRef where
  cbp : BitVec 14
  cbw : BitVec 6
  deriving DecidableEq, Repr

/-- The formats with transfer semantics (R6, R92). -/
inductive Format where
  | psmct32
  | psmt8
  | psmt4
  deriving DecidableEq, Repr

/-- The descriptor classes (R70). -/
inductive OpClass where
  | clr
  | adr
  | mov
  | idx
  | dec
  | enc
  | prj
  deriving DecidableEq, Repr

/-- The 32 operations of the operation map (R77). -/
inductive Op where
  | clear
  | addr32
  | addr8
  | addr4
  | upload32
  | upload8
  | upload4
  | download32
  | download8
  | download4
  | dlidx8
  | dlidx4
  | xferUp
  | xferDown
  | xferDlidx
  | decBitbltbuf
  | decTrxpos
  | decTrxreg
  | decTrxdir
  | decTex0
  | decClamp
  | decTex1
  | decTex2
  | encBitbltbuf
  | encTrxpos
  | encTrxreg
  | encTrxdir
  | encTex0
  | encClamp
  | encTex1
  | encTex2
  | tex2FromTex0
  deriving DecidableEq, Repr

/-- A decoded command: one constructor per row of the opcode table. `alpha` is the optional fixed alpha:
`some v` is AEN = 1 with AOV = v, `none` is AEN = 0 (R71). The input stream of an upload is no part of the
descriptor: it stands at the data-in port (R25). -/
inductive Instr where
  | clear
  | addr32 (a : Surface)
  | addr8 (a : Surface)
  | addr4 (a : Surface)
  | upload32 (a : Surface) (r : Extent)
  | upload8 (a : Surface) (r : Extent)
  | upload4 (a : Surface) (r : Extent)
  | download32 (a : Surface) (r : Extent)
  | download8 (a : Surface) (r : Extent)
  | download4 (a : Surface) (r : Extent)
  | dlidx8 (a : Surface) (r : Extent) (c : ClutRef) (alpha : Option Byte)
  | dlidx4 (a : Surface) (r : Extent) (c : ClutRef) (csa : BitVec 5) (alpha : Option Byte)
  | xferUp (psm : BitVec 6) (a : Surface) (r : Extent)
  | xferDown (psm : BitVec 6) (a : Surface) (r : Extent)
  | xferDlidx (psm : BitVec 6) (a : Surface) (r : Extent) (c : ClutRef) (csa : BitVec 5)
      (alpha : Option Byte)
  | decBitbltbuf (rw : Word64)
  | decTrxpos (rw : Word64)
  | decTrxreg (rw : Word64)
  | decTrxdir (rw : Word64)
  | decTex0 (rw : Word64)
  | decClamp (rw : Word64)
  | decTex1 (rw : Word64)
  | decTex2 (rw : Word64)
  | encBitbltbuf (f : Bitbltbuf)
  | encTrxpos (f : Trxpos)
  | encTrxreg (f : Trxreg)
  | encTrxdir (f : Trxdir)
  | encTex0 (f : Tex0)
  | encClamp (f : Clamp)
  | encTex1 (f : Tex1)
  | encTex2 (f : Tex2)
  | tex2FromTex0 (f : Tex0)
  deriving DecidableEq, Repr

end Sys2Proof
end

