-- ==== Sys2Proof/Machine/Codec.lean ====
section
/-! DEFINITION. The register codec (30_encoding.md R82 to R91; 41_register_codec.md): the field list of each
register type, the generic decode and encode over such a list, and the typed decode and encode of each of the
eight registers. Pure functions: no state is read or written, no field value is checked (R91, R180). -/

namespace Sys2Proof.Machine

/-! ### Generic codec over a field list -/

/-- A field of a register type: its name and the bits `hi:lo` it occupies (R82). -/
structure Field where
  name : String
  hi   : Nat
  lo   : Nat
  deriving DecidableEq, Repr

/-- A register type: its field list `F_T` (R82). -/
abbrev Layout := List Field

/-- The width of the field `hi:lo`. -/
def fieldWidth (f : Field) : Nat := f.hi - f.lo + 1

/-- Generic decode: for each field its value `v[hi:lo]`; bits no field covers are ignored (R160). -/
def layoutDecode (fs : Layout) (v : Word64) : List (String × Nat) :=
  fs.map fun f => (f.name, v.toNat / 2 ^ f.lo % 2 ^ fieldWidth f)

/-- Generic encode: the sum over the fields of `value << lo`; a field the record does not name is zero, and so
is every bit no field covers (R161, R31). -/
def layoutEncode (fs : Layout) (r : List (String × Nat)) : Word64 :=
  BitVec.ofNat 64 (fs.map fun f => (r.lookup f.name).getD 0 * 2 ^ f.lo).sum

/-- `MASK_T`: every bit that some field covers (R162). -/
def layoutMask (fs : Layout) : Word64 :=
  BitVec.ofNat 64 (fs.map fun f => (2 ^ fieldWidth f - 1) * 2 ^ f.lo).sum

/-- R83. -/
def bitbltbufLayout : Layout :=
  [⟨"SBP", 13, 0⟩, ⟨"SBW", 21, 16⟩, ⟨"SPSM", 29, 24⟩, ⟨"DBP", 45, 32⟩, ⟨"DBW", 53, 48⟩, ⟨"DPSM", 61, 56⟩]

/-- R84. -/
def trxposLayout : Layout :=
  [⟨"SSAX", 10, 0⟩, ⟨"SSAY", 26, 16⟩, ⟨"DSAX", 42, 32⟩, ⟨"DSAY", 58, 48⟩, ⟨"DIR", 60, 59⟩]

/-- R85. -/
def trxregLayout : Layout := [⟨"RRW", 11, 0⟩, ⟨"RRH", 43, 32⟩]

/-- R86. -/
def trxdirLayout : Layout := [⟨"XDIR", 1, 0⟩]

/-- R87. -/
def tex0Layout : Layout :=
  [⟨"TBP0", 13, 0⟩, ⟨"TBW", 19, 14⟩, ⟨"PSM", 25, 20⟩, ⟨"TW", 29, 26⟩, ⟨"TH", 33, 30⟩, ⟨"TCC", 34, 34⟩,
   ⟨"TFX", 36, 35⟩, ⟨"CBP", 50, 37⟩, ⟨"CPSM", 54, 51⟩, ⟨"CSM", 55, 55⟩, ⟨"CSA", 60, 56⟩, ⟨"CLD", 63, 61⟩]

/-- R88. -/
def clampLayout : Layout :=
  [⟨"WMS", 1, 0⟩, ⟨"WMT", 3, 2⟩, ⟨"MINU", 13, 4⟩, ⟨"MAXU", 23, 14⟩, ⟨"MINV", 33, 24⟩, ⟨"MAXV", 43, 34⟩]

/-- R89. -/
def tex1Layout : Layout :=
  [⟨"LCM", 0, 0⟩, ⟨"MXL", 4, 2⟩, ⟨"MMAG", 5, 5⟩, ⟨"MMIN", 8, 6⟩, ⟨"MTBA", 9, 9⟩, ⟨"L", 20, 19⟩,
   ⟨"K", 43, 32⟩]

/-- R90. -/
def tex2Layout : Layout :=
  [⟨"PSM", 25, 20⟩, ⟨"CBP", 50, 37⟩, ⟨"CPSM", 54, 51⟩, ⟨"CSM", 55, 55⟩, ⟨"CSA", 60, 56⟩, ⟨"CLD", 63, 61⟩]

/-! ### Typed codec of each register -/

/-- `value << lo` in a 64-bit word. -/
def place {n : Nat} (v : BitVec n) (lo : Nat) : Word64 := v.setWidth 64 <<< lo

/-- R163. -/
def decodeBitbltbuf (rw : Word64) : Bitbltbuf where
  sbp  := rw.extractLsb' 0 14
  sbw  := rw.extractLsb' 16 6
  spsm := rw.extractLsb' 24 6
  dbp  := rw.extractLsb' 32 14
  dbw  := rw.extractLsb' 48 6
  dpsm := rw.extractLsb' 56 6

/-- R164. -/
def encodeBitbltbuf (f : Bitbltbuf) : Word64 :=
  place f.sbp 0 ||| place f.sbw 16 ||| place f.spsm 24 ||| place f.dbp 32 ||| place f.dbw 48 ||| place f.dpsm 56

/-- R165. -/
def decodeTrxpos (rw : Word64) : Trxpos where
  ssax := rw.extractLsb' 0 11
  ssay := rw.extractLsb' 16 11
  dsax := rw.extractLsb' 32 11
  dsay := rw.extractLsb' 48 11
  dir  := rw.extractLsb' 59 2

/-- R166. -/
def encodeTrxpos (f : Trxpos) : Word64 :=
  place f.ssax 0 ||| place f.ssay 16 ||| place f.dsax 32 ||| place f.dsay 48 ||| place f.dir 59

/-- R167. -/
def decodeTrxreg (rw : Word64) : Trxreg where
  rrw := rw.extractLsb' 0 12
  rrh := rw.extractLsb' 32 12

/-- R168. -/
def encodeTrxreg (f : Trxreg) : Word64 := place f.rrw 0 ||| place f.rrh 32

/-- R169. -/
def decodeTrxdir (rw : Word64) : Trxdir where
  xdir := rw.extractLsb' 0 2

/-- R170. -/
def encodeTrxdir (f : Trxdir) : Word64 := place f.xdir 0

/-- R171. -/
def decodeTex0 (rw : Word64) : Tex0 where
  tbp0 := rw.extractLsb' 0 14
  tbw  := rw.extractLsb' 14 6
  psm  := rw.extractLsb' 20 6
  tw   := rw.extractLsb' 26 4
  th   := rw.extractLsb' 30 4
  tcc  := rw.extractLsb' 34 1
  tfx  := rw.extractLsb' 35 2
  cbp  := rw.extractLsb' 37 14
  cpsm := rw.extractLsb' 51 4
  csm  := rw.extractLsb' 55 1
  csa  := rw.extractLsb' 56 5
  cld  := rw.extractLsb' 61 3

/-- R172. -/
def encodeTex0 (f : Tex0) : Word64 :=
  place f.tbp0 0 ||| place f.tbw 14 ||| place f.psm 20 ||| place f.tw 26 ||| place f.th 30 ||| place f.tcc 34
    ||| place f.tfx 35 ||| place f.cbp 37 ||| place f.cpsm 51 ||| place f.csm 55 ||| place f.csa 56
    ||| place f.cld 61

/-- R173. -/
def decodeClamp (rw : Word64) : Clamp where
  wms  := rw.extractLsb' 0 2
  wmt  := rw.extractLsb' 2 2
  minu := rw.extractLsb' 4 10
  maxu := rw.extractLsb' 14 10
  minv := rw.extractLsb' 24 10
  maxv := rw.extractLsb' 34 10

/-- R174. -/
def encodeClamp (f : Clamp) : Word64 :=
  place f.wms 0 ||| place f.wmt 2 ||| place f.minu 4 ||| place f.maxu 14 ||| place f.minv 24 ||| place f.maxv 34

/-- R175. -/
def decodeTex1 (rw : Word64) : Tex1 where
  lcm  := rw.extractLsb' 0 1
  mxl  := rw.extractLsb' 2 3
  mmag := rw.extractLsb' 5 1
  mmin := rw.extractLsb' 6 3
  mtba := rw.extractLsb' 9 1
  l    := rw.extractLsb' 19 2
  k    := rw.extractLsb' 32 12

/-- R176. -/
def encodeTex1 (f : Tex1) : Word64 :=
  place f.lcm 0 ||| place f.mxl 2 ||| place f.mmag 5 ||| place f.mmin 6 ||| place f.mtba 9 ||| place f.l 19
    ||| place f.k 32

/-- R177. -/
def decodeTex2 (rw : Word64) : Tex2 where
  psm  := rw.extractLsb' 20 6
  cbp  := rw.extractLsb' 37 14
  cpsm := rw.extractLsb' 51 4
  csm  := rw.extractLsb' 55 1
  csa  := rw.extractLsb' 56 5
  cld  := rw.extractLsb' 61 3

/-- R178. -/
def encodeTex2 (f : Tex2) : Word64 :=
  place f.psm 20 ||| place f.cbp 37 ||| place f.cpsm 51 ||| place f.csm 55 ||| place f.csa 56 ||| place f.cld 61

/-- The projection of a TEX0 value onto TEX2 (R179). -/
def projectTex2 (t : Tex0) : Tex2 where
  psm  := t.psm
  cbp  := t.cbp
  cpsm := t.cpsm
  csm  := t.csm
  csa  := t.csa
  cld  := t.cld

end Sys2Proof.Machine
end

