-- ==== Sys2Proof/Decode.lean ====
section
/-! DEFINITION. The encoding of commands (30_encoding.md R70 to R79): the operation map, the descriptor words'
fields, the decoder (total on any words and on any bytes, rejecting by name) and the encoder. -/

namespace Sys2Proof

/-! ### The operation map -/

/-- How many 64-bit words a descriptor of the class has (R70). The field record of the ENC and PRJ classes
takes one word, as opcode_table.json counts it (DESIGN CHOICE, log entry 5). -/
def classWords : OpClass → Nat
  | .clr => 1
  | .adr => 2
  | .mov => 3
  | .idx => 4
  | .dec => 2
  | .enc => 2
  | .prj => 2

/-- The class of each operation (R77). -/
def opClass : Op → OpClass
  | .clear => .clr
  | .addr32 | .addr8 | .addr4 => .adr
  | .upload32 | .upload8 | .upload4 => .mov
  | .download32 | .download8 | .download4 => .mov
  | .dlidx8 | .dlidx4 => .idx
  | .xferUp | .xferDown => .mov
  | .xferDlidx => .idx
  | .decBitbltbuf | .decTrxpos | .decTrxreg | .decTrxdir => .dec
  | .decTex0 | .decClamp | .decTex1 | .decTex2 => .dec
  | .encBitbltbuf | .encTrxpos | .encTrxreg | .encTrxdir => .enc
  | .encTex0 | .encClamp | .encTex1 | .encTex2 => .enc
  | .tex2FromTex0 => .prj

/-- The number of words of an operation's descriptor, told from `OP` alone (R70). -/
def opWords (op : Op) : Nat := classWords (opClass op)

/-- The operation map: every legal `OP` value, its mnemonic and its operation (R77). -/
def opTable : List (BitVec 8 × String × Op) :=
  [(0x01, "CLEAR", .clear),
   (0x10, "ADDR32", .addr32),
   (0x11, "ADDR8", .addr8),
   (0x12, "ADDR4", .addr4),
   (0x20, "UPLOAD32", .upload32),
   (0x21, "UPLOAD8", .upload8),
   (0x22, "UPLOAD4", .upload4),
   (0x30, "DOWNLOAD32", .download32),
   (0x31, "DOWNLOAD8", .download8),
   (0x32, "DOWNLOAD4", .download4),
   (0x40, "DLIDX8", .dlidx8),
   (0x41, "DLIDX4", .dlidx4),
   (0x50, "XFER_UP", .xferUp),
   (0x51, "XFER_DOWN", .xferDown),
   (0x52, "XFER_DLIDX", .xferDlidx)] ++
  [(0x80, "DEC_BITBLTBUF", .decBitbltbuf),
   (0x81, "DEC_TRXPOS", .decTrxpos),
   (0x82, "DEC_TRXREG", .decTrxreg),
   (0x83, "DEC_TRXDIR", .decTrxdir),
   (0x84, "DEC_TEX0", .decTex0),
   (0x85, "DEC_CLAMP", .decClamp),
   (0x86, "DEC_TEX1", .decTex1),
   (0x87, "DEC_TEX2", .decTex2),
   (0x90, "ENC_BITBLTBUF", .encBitbltbuf),
   (0x91, "ENC_TRXPOS", .encTrxpos),
   (0x92, "ENC_TRXREG", .encTrxreg),
   (0x93, "ENC_TRXDIR", .encTrxdir),
   (0x94, "ENC_TEX0", .encTex0),
   (0x95, "ENC_CLAMP", .encClamp),
   (0x96, "ENC_TEX1", .encTex1),
   (0x97, "ENC_TEX2", .encTex2),
   (0xA0, "TEX2_FROM_TEX0", .tex2FromTex0)]

/-- The operation of an `OP` value, all eight bits matched; `none` where the value is illegal (R77, R78). -/
def opOfCode (c : BitVec 8) : Option Op :=
  (opTable.find? fun r => r.1 == c).map fun r => r.2.2

/-- The `OP` value of an operation (R77). -/
def opCode (op : Op) : BitVec 8 :=
  ((opTable.find? fun r => r.2.2 == op).map fun r => r.1).getD 0

/-- The mnemonic of an operation (R77). -/
def opMnemonic (op : Op) : String :=
  ((opTable.find? fun r => r.2.2 == op).map fun r => r.2.1).getD ""

/-- The operation of a mnemonic (R77, R80). -/
def opOfMnemonic (m : String) : Option Op :=
  (opTable.find? fun r => r.2.1 == m).map fun r => r.2.2

/-- The operation a decoded command stands for. -/
def opOf : Instr → Op
  | .clear => .clear
  | .addr32 _ => .addr32
  | .addr8 _ => .addr8
  | .addr4 _ => .addr4
  | .upload32 _ _ => .upload32
  | .upload8 _ _ => .upload8
  | .upload4 _ _ => .upload4
  | .download32 _ _ => .download32
  | .download8 _ _ => .download8
  | .download4 _ _ => .download4
  | .dlidx8 _ _ _ _ => .dlidx8
  | .dlidx4 _ _ _ _ _ => .dlidx4
  | .xferUp _ _ _ => .xferUp
  | .xferDown _ _ _ => .xferDown
  | .xferDlidx _ _ _ _ _ _ => .xferDlidx
  | .decBitbltbuf _ => .decBitbltbuf
  | .decTrxpos _ => .decTrxpos
  | .decTrxreg _ => .decTrxreg
  | .decTrxdir _ => .decTrxdir
  | .decTex0 _ => .decTex0
  | .decClamp _ => .decClamp
  | .decTex1 _ => .decTex1
  | .decTex2 _ => .decTex2
  | .encBitbltbuf _ => .encBitbltbuf
  | .encTrxpos _ => .encTrxpos
  | .encTrxreg _ => .encTrxreg
  | .encTrxdir _ => .encTrxdir
  | .encTex0 _ => .encTex0
  | .encClamp _ => .encClamp
  | .encTex1 _ => .encTex1
  | .encTex2 _ => .encTex2
  | .tex2FromTex0 _ => .tex2FromTex0

/-! ### Fields of the descriptor words -/

/-- W0.OP (R71). -/
def opField (w0 : Word64) : BitVec 8 := w0.extractLsb' 0 8

/-- W0.PSM (R71). -/
def psmField (w0 : Word64) : BitVec 6 := w0.extractLsb' 8 6

/-- W0.AEN and W0.AOV: the fixed alpha, present when AEN = 1 (R71). -/
def alphaField (w0 : Word64) : Option Byte :=
  if w0.extractLsb' 16 1 = 1#1 then some (w0.extractLsb' 24 8) else none

/-- W0.CSA (R71). -/
def csaField (w0 : Word64) : BitVec 5 := w0.extractLsb' 32 5

/-- The surface word W1 (R72). -/
def surfaceOfWord (w1 : Word64) : Surface where
  bp := w1.extractLsb' 0 14
  bw := w1.extractLsb' 16 6
  x  := w1.extractLsb' 32 11
  y  := w1.extractLsb' 48 11

/-- The rectangle word W2 (R73). -/
def extentOfWord (w2 : Word64) : Extent where
  w := w2.extractLsb' 0 12
  h := w2.extractLsb' 32 12

/-- The CLUT word W3 (R74). -/
def clutOfWord (w3 : Word64) : ClutRef where
  cbp := w3.extractLsb' 0 14
  cbw := w3.extractLsb' 16 6

/-! ### Decoding -/

/-- Why a descriptor is no command. -/
inductive DecodeError where
  /-- W0.OP is one of the values of R78. -/
  | illegalOp (code : BitVec 8)
  /-- The descriptor has no word at all: there is no `OP` to read. -/
  | noCommandWord
  /-- The descriptor ends before the words its `OP` fixes (R70). -/
  | truncated (op : Op)
  deriving DecidableEq, Repr

/-- The command an operation's words hold; a field the operation does not use is not looked at (R71 to R76). -/
def instrOfWords (op : Op) (w0 w1 w2 w3 : Word64) : Instr :=
  match op with
  | .clear => .clear
  | .addr32 => .addr32 (surfaceOfWord w1)
  | .addr8 => .addr8 (surfaceOfWord w1)
  | .addr4 => .addr4 (surfaceOfWord w1)
  | .upload32 => .upload32 (surfaceOfWord w1) (extentOfWord w2)
  | .upload8 => .upload8 (surfaceOfWord w1) (extentOfWord w2)
  | .upload4 => .upload4 (surfaceOfWord w1) (extentOfWord w2)
  | .download32 => .download32 (surfaceOfWord w1) (extentOfWord w2)
  | .download8 => .download8 (surfaceOfWord w1) (extentOfWord w2)
  | .download4 => .download4 (surfaceOfWord w1) (extentOfWord w2)
  | .dlidx8 => .dlidx8 (surfaceOfWord w1) (extentOfWord w2) (clutOfWord w3) (alphaField w0)
  | .dlidx4 => .dlidx4 (surfaceOfWord w1) (extentOfWord w2) (clutOfWord w3) (csaField w0) (alphaField w0)
  | .xferUp => .xferUp (psmField w0) (surfaceOfWord w1) (extentOfWord w2)
  | .xferDown => .xferDown (psmField w0) (surfaceOfWord w1) (extentOfWord w2)
  | .xferDlidx =>
    .xferDlidx (psmField w0) (surfaceOfWord w1) (extentOfWord w2) (clutOfWord w3) (csaField w0) (alphaField w0)
  | .decBitbltbuf => .decBitbltbuf w1
  | .decTrxpos => .decTrxpos w1
  | .decTrxreg => .decTrxreg w1
  | .decTrxdir => .decTrxdir w1
  | .decTex0 => .decTex0 w1
  | .decClamp => .decClamp w1
  | .decTex1 => .decTex1 w1
  | .decTex2 => .decTex2 w1
  | .encBitbltbuf => .encBitbltbuf (Machine.decodeBitbltbuf w1)
  | .encTrxpos => .encTrxpos (Machine.decodeTrxpos w1)
  | .encTrxreg => .encTrxreg (Machine.decodeTrxreg w1)
  | .encTrxdir => .encTrxdir (Machine.decodeTrxdir w1)
  | .encTex0 => .encTex0 (Machine.decodeTex0 w1)
  | .encClamp => .encClamp (Machine.decodeClamp w1)
  | .encTex1 => .encTex1 (Machine.decodeTex1 w1)
  | .encTex2 => .encTex2 (Machine.decodeTex2 w1)
  | .tex2FromTex0 => .tex2FromTex0 (Machine.decodeTex0 w1)

/-- Decode the descriptor at the head of a list of words: the command and the words after it. `OP` alone tells
the length, and with an illegal `OP` the descriptor is W0 alone (R70, R78). -/
def decodeWords : List Word64 → Except DecodeError (Instr × List Word64)
  | [] => .error .noCommandWord
  | w0 :: ws =>
    match opOfCode (opField w0) with
    | none => .error (.illegalOp (opField w0))
    | some op =>
      if ws.length + 1 < opWords op then .error (.truncated op)
      else .ok (instrOfWords op w0 (ws.getD 0 0) (ws.getD 1 0) (ws.getD 2 0), ws.drop (opWords op - 1))

/-- The 64-bit word eight bytes carry, the least significant byte first (R46). -/
def wordOfBytes (b0 b1 b2 b3 b4 b5 b6 b7 : Byte) : Word64 :=
  b7 ++ b6 ++ b5 ++ b4 ++ b3 ++ b2 ++ b1 ++ b0

/-- The whole 64-bit words a byte stream carries (R46). -/
def wordsOfBytes : List Byte → List Word64
  | b0 :: b1 :: b2 :: b3 :: b4 :: b5 :: b6 :: b7 :: bs =>
    wordOfBytes b0 b1 b2 b3 b4 b5 b6 b7 :: wordsOfBytes bs
  | _ => []

/-- Decode the descriptor at the head of a byte stream: the command and the bytes after it (R46, R70). -/
def decodeBytes (bs : List Byte) : Except DecodeError (Instr × List Byte) :=
  match decodeWords (wordsOfBytes bs) with
  | .ok (i, _) => .ok (i, bs.drop (8 * opWords (opOf i)))
  | .error e => .error e

/-! ### Encoding -/

/-- W0 of a command; unused and reserved bits are zero (R71, R76). -/
def commandWord (op : Op) (psm : BitVec 6) (csa : BitVec 5) (alpha : Option Byte) : Word64 :=
  Machine.place (opCode op) 0 ||| Machine.place psm 8 |||
    Machine.place (BitVec.ofBool alpha.isSome) 16 ||| Machine.place (alpha.getD 0) 24 |||
    Machine.place csa 32

/-- W0 of a command that uses `OP` alone. -/
def plainWord (op : Op) : Word64 := commandWord op 0 0 none

/-- The word W1 of a surface (R72). -/
def surfaceWord (a : Surface) : Word64 :=
  Machine.place a.bp 0 ||| Machine.place a.bw 16 ||| Machine.place a.x 32 ||| Machine.place a.y 48

/-- The word W2 of a rectangle (R73). -/
def extentWord (r : Extent) : Word64 := Machine.place r.w 0 ||| Machine.place r.h 32

/-- The word W3 of a CLUT reference (R74). -/
def clutWord (c : ClutRef) : Word64 := Machine.place c.cbp 0 ||| Machine.place c.cbw 16

/-- The descriptor words of a command (R70 to R75). -/
def encode : Instr → List Word64
  | .clear => [plainWord .clear]
  | .addr32 a => [plainWord .addr32, surfaceWord a]
  | .addr8 a => [plainWord .addr8, surfaceWord a]
  | .addr4 a => [plainWord .addr4, surfaceWord a]
  | .upload32 a r => [plainWord .upload32, surfaceWord a, extentWord r]
  | .upload8 a r => [plainWord .upload8, surfaceWord a, extentWord r]
  | .upload4 a r => [plainWord .upload4, surfaceWord a, extentWord r]
  | .download32 a r => [plainWord .download32, surfaceWord a, extentWord r]
  | .download8 a r => [plainWord .download8, surfaceWord a, extentWord r]
  | .download4 a r => [plainWord .download4, surfaceWord a, extentWord r]
  | .dlidx8 a r c alpha => [commandWord .dlidx8 0 0 alpha, surfaceWord a, extentWord r, clutWord c]
  | .dlidx4 a r c csa alpha => [commandWord .dlidx4 0 csa alpha, surfaceWord a, extentWord r, clutWord c]
  | .xferUp psm a r => [commandWord .xferUp psm 0 none, surfaceWord a, extentWord r]
  | .xferDown psm a r => [commandWord .xferDown psm 0 none, surfaceWord a, extentWord r]
  | .xferDlidx psm a r c csa alpha =>
    [commandWord .xferDlidx psm csa alpha, surfaceWord a, extentWord r, clutWord c]
  | .decBitbltbuf rw => [plainWord .decBitbltbuf, rw]
  | .decTrxpos rw => [plainWord .decTrxpos, rw]
  | .decTrxreg rw => [plainWord .decTrxreg, rw]
  | .decTrxdir rw => [plainWord .decTrxdir, rw]
  | .decTex0 rw => [plainWord .decTex0, rw]
  | .decClamp rw => [plainWord .decClamp, rw]
  | .decTex1 rw => [plainWord .decTex1, rw]
  | .decTex2 rw => [plainWord .decTex2, rw]
  | .encBitbltbuf f => [plainWord .encBitbltbuf, Machine.encodeBitbltbuf f]
  | .encTrxpos f => [plainWord .encTrxpos, Machine.encodeTrxpos f]
  | .encTrxreg f => [plainWord .encTrxreg, Machine.encodeTrxreg f]
  | .encTrxdir f => [plainWord .encTrxdir, Machine.encodeTrxdir f]
  | .encTex0 f => [plainWord .encTex0, Machine.encodeTex0 f]
  | .encClamp f => [plainWord .encClamp, Machine.encodeClamp f]
  | .encTex1 f => [plainWord .encTex1, Machine.encodeTex1 f]
  | .encTex2 f => [plainWord .encTex2, Machine.encodeTex2 f]
  | .tex2FromTex0 f => [plainWord .tex2FromTex0, Machine.encodeTex0 f]

/-- The eight bytes that carry a word, the least significant first (R46). -/
def bytesOfWord (w : Word64) : List Byte :=
  (List.range 8).map fun k => w.extractLsb' (8 * k) 8

/-- The bytes that carry a command's descriptor (R46, R70). -/
def encodeBytes (i : Instr) : List Byte := (encode i).flatMap bytesOfWord

/-! ### A command given as one number -/

/-- The four words of a descriptor whose low `nbits` bits are those of `w`, every higher bit zero: bit 0 is the
least significant bit of the first word. Four words is the longest descriptor (R70). -/
def wordsOfNat (nbits w : Nat) : List Word64 :=
  (List.range 4).map fun k => BitVec.ofNat 64 ((w % 2 ^ nbits) >>> (64 * k))

/-- The command the decoder reads from the descriptor with the bits `w`, laid out as bytes (R46); `none` where
the decoder refuses. -/
def decodeTableWord (nbits w : Nat) : Option Instr :=
  match decodeBytes ((wordsOfNat nbits w).flatMap bytesOfWord) with
  | .ok (i, _) => some i
  | .error _ => none

end Sys2Proof
end

