-- ==== Sys2Proof/Machine/State.lean ====
section
/-! DEFINITION. The state of one engine instance (10_state.md R21 to R26), the results its commands return, the
reasons a step can stop, and the state after construction (R30; 70_reset_and_hazards.md R280). -/

namespace Sys2Proof.Machine

/-- `MEM` as plain data: the bytes that are not zero, by strictly rising address; an address not listed reads
as zero, the value construction gives every byte (R30; log entry 11). -/
abbrev Memory := List Host.Cell

/-- The four fault codes (60_exceptions.md R250). -/
inductive FaultCode where
  | illegalOp
  | coordOverflow
  | outOfRange
  | inputUnderrun
  deriving DecidableEq, Repr

/-- The record a faulting command leaves in `FAULT` (R252). -/
structure FaultRecord where
  code   : FaultCode
  op     : BitVec 8
  x      : Nat
  y      : Nat
  offset : Nat
  deriving DecidableEq, Repr

/-- The `STATUS` a command returns (R26, R250). -/
inductive Status where
  | ok
  | unsupported
  | faulted (code : FaultCode)
  deriving DecidableEq, Repr

/-- The `RESULT` a command returns (R26): nothing, a byte stream `OUT`, an offset, a 64-bit word, or a field
record of one of the eight register types. -/
inductive Result where
  | nothing
  | bytes (out : List Byte)
  | offset (o : Nat)
  | word (w : Word64)
  | bitbltbuf (f : Bitbltbuf)
  | trxpos (f : Trxpos)
  | trxreg (f : Trxreg)
  | trxdir (f : Trxdir)
  | tex0 (f : Tex0)
  | clamp (f : Clamp)
  | tex1 (f : Tex1)
  | tex2 (f : Tex2)
  deriving DecidableEq, Repr

/-- The pair `(STATUS, RESULT)` of one command (R26). -/
structure Response where
  status : Status
  result : Result
  deriving DecidableEq, Repr

/-- One transaction at the command port: the descriptor words, with the record or register word that comes
with them, and the input stream `IN` (R24, R25). -/
structure Command where
  words : List Word64
  input : List Byte
  deriving DecidableEq, Repr

/-- The state of one instance. `mem` and `fault` are the whole architectural state (R23); the other three fields
hold the instance's ports, so that a step is a function of the state (log entries 1, 6, 7). -/
structure State where
  /-- `MEM` (R21). -/
  mem      : Memory
  /-- `FAULT`: none, or the record of the first fault (R22). -/
  fault    : Option FaultRecord
  /-- The command port: the commands the host issues, in issue order; the head is the next (R24, R51). -/
  commands : List Command
  /-- The data-in port: the input stream of the command in progress (R25). -/
  input    : List Byte
  /-- The result port: what the commands so far returned, oldest first, one per command (R26). -/
  results  : List Response
  deriving DecidableEq, Repr

/-- Why the machine stops. -/
inductive Fault where
  /-- A command is offered to a faulted instance, which accepts none: the instance is quiescent and no step
  exists (R22, R257). Raised by every operation, through `whenReady`, and by the rejection of a descriptor.
  Safe: the model stops where the spec gives no step. -/
  | quiescent
  deriving DecidableEq, Repr

/-- Why the model gives a transaction no meaning. -/
inductive Refusal where
  /-- An instruction without a meaning yet; raised by no arm of `exec`. Safe. -/
  | notModelled (mnemonic : String)
  /-- The descriptor holds fewer words than its OP fixes, or none: no command of the spec has that form (R70).
  Raised by the step that takes the transaction from the command port. Safe (log entry 8). -/
  | incompleteDescriptor
  deriving DecidableEq, Repr

/-- The state right after construction: MEM all zero, FAULT none (R30, R280). Nothing has been issued and
nothing returned, so the ports are empty (DESIGN CHOICE, log entries 1, 6, 7). -/
def State.reset : State where
  mem      := []
  fault    := none
  commands := []
  input    := []
  results  := []

end Sys2Proof.Machine
end

