-- ==== Sys2Proof/Machine/Memory.lean ====
section
/-! DEFINITION. The named operations over `MEM` (00_scope.md R9; 20_memory.md R41, R47, R48): reading and
writing a byte, a run of bytes and a nibble, and the canonical form every write keeps. -/

namespace Sys2Proof.Machine

/-- `MEM[a]`: the listed byte, or zero where none is listed (R9, R30). -/
def readByte (m : Memory) (a : Nat) : Byte := (m.lookup a).getD 0

/-- Put a byte that is not zero at its place in the order of addresses. -/
def insertCell (a : Nat) (v : Byte) : Memory → Memory
  | [] => [(a, v)]
  | c :: m =>
    if c.1 < a then c :: insertCell a v m
    else if c.1 = a then (a, v) :: m
    else (a, v) :: c :: m

/-- `MEM[a] <- v` (R9). Writing zero, what an unlisted address reads as, removes the entry. -/
def writeByte (m : Memory) (a : Nat) (v : Byte) : Memory :=
  if v = 0 then m.filter fun c => c.1 != a else insertCell a v m

/-- `MemRead(a, n)`: the `n` bytes from `a` on, in address order (R9). -/
def readBytes (m : Memory) (a n : Nat) : List Byte := (List.range n).map fun k => readByte m (a + k)

/-- `MemWrite(a, n, bs)`: the bytes of `bs` to `a`, `a + 1`, ... in address order (R9). -/
def writeBytes (m : Memory) (a : Nat) : List Byte → Memory
  | [] => m
  | b :: bs => writeBytes (writeByte m a b) (a + 1) bs

/-- `NibRead(q)`: lane `q & 1` of byte `q >> 1`, the even lane being bits 3:0 (R48). -/
def readNibble (m : Memory) (q : Nat) : Nibble :=
  if q &&& 1 = 0 then (readByte m (q >>> 1)).extractLsb' 0 4 else (readByte m (q >>> 1)).extractLsb' 4 4

/-- `NibWrite(q, v)`: a read-modify-write that leaves the byte's other lane as it was (R48). -/
def writeNibble (m : Memory) (q : Nat) (v : Nibble) : Memory :=
  if q &&& 1 = 0 then writeByte m (q >>> 1) (readByte m (q >>> 1) &&& 0xF0 ||| v.setWidth 8)
  else writeByte m (q >>> 1) (readByte m (q >>> 1) &&& 0x0F ||| v.setWidth 8 <<< 4)

/-- The canonical form: addresses strictly rising and below `CAP`, and no listed byte zero. -/
def Memory.wf (m : Memory) : Bool :=
  decide (m.Pairwise fun c d => c.1 < d.1) && m.all fun c => c.2 != 0 && decide (c.1 < Config.cap)

end Sys2Proof.Machine
end

