-- ==== Sys2Proof/Machine/Translator.lean ====
section
/-! DEFINITION. The address translator (40_translator.md): the permutation tables, the common structure of the
three translators, and each translator. Pure functions in unbounded non-negative integers: nothing wraps, nothing
is checked (R121, R122). -/

namespace Sys2Proof.Machine

/-! ### Permutation tables: `T[row][column]`, the row y-derived and the column x-derived (00_scope.md R10) -/

/-- A permutation table, by rows. -/
abbrev Table := List (List Nat)

/-- `T[row][col]` (R10). -/
def tableAt (t : Table) (row col : Nat) : Nat := (t.getD row []).getD col 0

/-- BT32, the PSMCT32 block table: row `(y >> 3) & 3`, column `(x >> 3) & 7` (R124). -/
def bt32 : Table :=
  [[0, 1, 4, 5, 16, 17, 20, 21],
   [2, 3, 6, 7, 18, 19, 22, 23],
   [8, 9, 12, 13, 24, 25, 28, 29],
   [10, 11, 14, 15, 26, 27, 30, 31]]

/-- CT32, the PSMCT32 column table, in 32-bit words: row `y & 7`, column `x & 7` (R125; 90_conflicts.md C5). -/
def ct32 : Table :=
  [[0, 1, 4, 5, 8, 9, 12, 13],
   [2, 3, 6, 7, 10, 11, 14, 15],
   [16, 17, 20, 21, 24, 25, 28, 29],
   [18, 19, 22, 23, 26, 27, 30, 31],
   [32, 33, 36, 37, 40, 41, 44, 45],
   [34, 35, 38, 39, 42, 43, 46, 47],
   [48, 49, 52, 53, 56, 57, 60, 61],
   [50, 51, 54, 55, 58, 59, 62, 63]]

/-- BT8, the PSMT8 block table: row `(y >> 4) & 3`, column `(x >> 4) & 7`. It is identical to BT32 (R126). -/
def bt8 : Table := bt32

/-- CT8, the PSMT8 column table, in bytes: row `y & 15`, column `x & 15` (R127). -/
def ct8 : Table :=
  [[0, 4, 16, 20, 32, 36, 48, 52, 2, 6, 18, 22, 34, 38, 50, 54],
   [8, 12, 24, 28, 40, 44, 56, 60, 10, 14, 26, 30, 42, 46, 58, 62],
   [33, 37, 49, 53, 1, 5, 17, 21, 35, 39, 51, 55, 3, 7, 19, 23],
   [41, 45, 57, 61, 9, 13, 25, 29, 43, 47, 59, 63, 11, 15, 27, 31],
   [96, 100, 112, 116, 64, 68, 80, 84, 98, 102, 114, 118, 66, 70, 82, 86],
   [104, 108, 120, 124, 72, 76, 88, 92, 106, 110, 122, 126, 74, 78, 90, 94],
   [65, 69, 81, 85, 97, 101, 113, 117, 67, 71, 83, 87, 99, 103, 115, 119],
   [73, 77, 89, 93, 105, 109, 121, 125, 75, 79, 91, 95, 107, 111, 123, 127],
   [128, 132, 144, 148, 160, 164, 176, 180, 130, 134, 146, 150, 162, 166, 178, 182],
   [136, 140, 152, 156, 168, 172, 184, 188, 138, 142, 154, 158, 170, 174, 186, 190],
   [161, 165, 177, 181, 129, 133, 145, 149, 163, 167, 179, 183, 131, 135, 147, 151],
   [169, 173, 185, 189, 137, 141, 153, 157, 171, 175, 187, 191, 139, 143, 155, 159],
   [224, 228, 240, 244, 192, 196, 208, 212, 226, 230, 242, 246, 194, 198, 210, 214],
   [232, 236, 248, 252, 200, 204, 216, 220, 234, 238, 250, 254, 202, 206, 218, 222],
   [193, 197, 209, 213, 225, 229, 241, 245, 195, 199, 211, 215, 227, 231, 243, 247],
   [201, 205, 217, 221, 233, 237, 249, 253, 203, 207, 219, 223, 235, 239, 251, 255]]

/-- BT4, the PSMT4 block table: row `(y >> 4) & 7`, column `(x >> 5) & 3` (R128; 90_conflicts.md C2). -/
def bt4 : Table :=
  [[0, 2, 8, 10],
   [1, 3, 9, 11],
   [4, 6, 12, 14],
   [5, 7, 13, 15],
   [16, 18, 24, 26],
   [17, 19, 25, 27],
   [20, 22, 28, 30],
   [21, 23, 29, 31]]

/-- Rows 0 to 7 of CT4 (R129). -/
def ct4Upper : Table :=
  [[0, 8, 32, 40, 64, 72, 96, 104, 2, 10, 34, 42, 66, 74, 98, 106, 4, 12, 36, 44, 68, 76, 100, 108, 6, 14, 38, 46,
    70, 78, 102, 110],
   [16, 24, 48, 56, 80, 88, 112, 120, 18, 26, 50, 58, 82, 90, 114, 122, 20, 28, 52, 60, 84, 92, 116, 124, 22, 30,
    54, 62, 86, 94, 118, 126],
   [65, 73, 97, 105, 1, 9, 33, 41, 67, 75, 99, 107, 3, 11, 35, 43, 69, 77, 101, 109, 5, 13, 37, 45, 71, 79, 103,
    111, 7, 15, 39, 47],
   [81, 89, 113, 121, 17, 25, 49, 57, 83, 91, 115, 123, 19, 27, 51, 59, 85, 93, 117, 125, 21, 29, 53, 61, 87, 95,
    119, 127, 23, 31, 55, 63],
   [192, 200, 224, 232, 128, 136, 160, 168, 194, 202, 226, 234, 130, 138, 162, 170, 196, 204, 228, 236, 132, 140,
    164, 172, 198, 206, 230, 238, 134, 142, 166, 174],
   [208, 216, 240, 248, 144, 152, 176, 184, 210, 218, 242, 250, 146, 154, 178, 186, 212, 220, 244, 252, 148, 156,
    180, 188, 214, 222, 246, 254, 150, 158, 182, 190],
   [129, 137, 161, 169, 193, 201, 225, 233, 131, 139, 163, 171, 195, 203, 227, 235, 133, 141, 165, 173, 197, 205,
    229, 237, 135, 143, 167, 175, 199, 207, 231, 239],
   [145, 153, 177, 185, 209, 217, 241, 249, 147, 155, 179, 187, 211, 219, 243, 251, 149, 157, 181, 189, 213, 221,
    245, 253, 151, 159, 183, 191, 215, 223, 247, 255]]

/-- Rows 8 to 15 of CT4 (R129). -/
def ct4Lower : Table :=
  [[256, 264, 288, 296, 320, 328, 352, 360, 258, 266, 290, 298, 322, 330, 354, 362, 260, 268, 292, 300, 324, 332,
    356, 364, 262, 270, 294, 302, 326, 334, 358, 366],
   [272, 280, 304, 312, 336, 344, 368, 376, 274, 282, 306, 314, 338, 346, 370, 378, 276, 284, 308, 316, 340, 348,
    372, 380, 278, 286, 310, 318, 342, 350, 374, 382],
   [321, 329, 353, 361, 257, 265, 289, 297, 323, 331, 355, 363, 259, 267, 291, 299, 325, 333, 357, 365, 261, 269,
    293, 301, 327, 335, 359, 367, 263, 271, 295, 303],
   [337, 345, 369, 377, 273, 281, 305, 313, 339, 347, 371, 379, 275, 283, 307, 315, 341, 349, 373, 381, 277, 285,
    309, 317, 343, 351, 375, 383, 279, 287, 311, 319],
   [448, 456, 480, 488, 384, 392, 416, 424, 450, 458, 482, 490, 386, 394, 418, 426, 452, 460, 484, 492, 388, 396,
    420, 428, 454, 462, 486, 494, 390, 398, 422, 430],
   [464, 472, 496, 504, 400, 408, 432, 440, 466, 474, 498, 506, 402, 410, 434, 442, 468, 476, 500, 508, 404, 412,
    436, 444, 470, 478, 502, 510, 406, 414, 438, 446],
   [385, 393, 417, 425, 449, 457, 481, 489, 387, 395, 419, 427, 451, 459, 483, 491, 389, 397, 421, 429, 453, 461,
    485, 493, 391, 399, 423, 431, 455, 463, 487, 495],
   [401, 409, 433, 441, 465, 473, 497, 505, 403, 411, 435, 443, 467, 475, 499, 507, 405, 413, 437, 445, 469, 477,
    501, 509, 407, 415, 439, 447, 471, 479, 503, 511]]

/-- CT4, the PSMT4 column table, in nibbles: row `y & 15`, column `x & 31` (R129; 90_conflicts.md C1). -/
def ct4 : Table := ct4Upper ++ ct4Lower

/-! ### The common structure (R120) -/

/-- The constants and tables by which the translator of a format differs from the others (R120). -/
structure Geometry where
  pageShiftX  : Nat
  pageShiftY  : Nat
  blockShiftX : Nat
  blockMaskX  : Nat
  blockShiftY : Nat
  blockMaskY  : Nat
  columnMaskX : Nat
  columnMaskY : Nat
  pageShift   : Nat
  blockShift  : Nat
  blockTable  : Table
  columnTable : Table
  deriving DecidableEq, Repr

/-- The rows of R120's table of constants, in its order: PX, PY, BX, BXM, BY, BYM, CXM, CYM, SP, SB. -/
def geometry : Format → Geometry
  | .psmct32 => ⟨6, 5, 3, 7, 3, 3, 7, 7, 11, 6, bt32, ct32⟩
  | .psmt8 => ⟨7, 6, 4, 7, 4, 3, 15, 15, 13, 8, bt8, ct8⟩
  | .psmt4 => ⟨7, 7, 5, 3, 4, 7, 31, 15, 14, 9, bt4, ct4⟩

/-- `PPR(bw)`, the buffer's width in pages (R120, R44). -/
def pagesPerRow : Format → Nat → Nat
  | .psmct32, bw => bw
  | .psmt8, bw => bw >>> 1
  | .psmt4, bw => bw >>> 1

/-- The page of a texel, never masked (R120, R121). -/
def pageOf (f : Format) (bp bw x y : Nat) : Nat :=
  (bp >>> 5) + (y >>> (geometry f).pageShiftY) * pagesPerRow f bw + (x >>> (geometry f).pageShiftX)

/-- The block of a texel; it may exceed 31 and so carry into the next page (R120, R123). -/
def blockOf (f : Format) (bp x y : Nat) : Nat :=
  (bp &&& 31) + tableAt (geometry f).blockTable ((y >>> (geometry f).blockShiftY) &&& (geometry f).blockMaskY)
    ((x >>> (geometry f).blockShiftX) &&& (geometry f).blockMaskX)

/-- The place of a texel in its block, in the format's unit (R120). -/
def columnOf (f : Format) (x y : Nat) : Nat :=
  tableAt (geometry f).columnTable (y &&& (geometry f).columnMaskY) (x &&& (geometry f).columnMaskX)

/-- The offset of a texel in the format's unit: 32-bit words, bytes or nibbles (R120). -/
def unitOffset (f : Format) (bp bw x y : Nat) : Nat :=
  (pageOf f bp bw x y <<< (geometry f).pageShift) + (blockOf f bp x y <<< (geometry f).blockShift) + columnOf f x y

/-! ### The translators -/

/-- ADDR32: a byte offset, four times the word offset (R132; 90_conflicts.md C4). -/
def addr32 (bp bw x y : Nat) : Nat := unitOffset .psmct32 bp bw x y <<< 2

/-- ADDR8: a byte offset (R133). -/
def addr8 (bp bw x y : Nat) : Nat := unitOffset .psmt8 bp bw x y

/-- ADDR4: a nibble offset (R134). -/
def addr4 (bp bw x y : Nat) : Nat := unitOffset .psmt4 bp bw x y

/-! ### Units of the address space (20_memory.md R42, R43) -/

/-- The page a byte address lies in (R42). -/
def pageOfByte (a : Nat) : Nat := a >>> 13

/-- The block a byte address lies in (R42). -/
def blockOfByte (a : Nat) : Nat := a >>> 8

/-- The column of a byte address within its block (R43). -/
def columnOfByte (a : Nat) : Nat := (a >>> 6) &&& 3

/-- The byte address of a block pointer (R42). -/
def byteOfBlock (bp : Nat) : Nat := bp <<< 8

/-- The texel geometry of a format: bits of a texel, and the width and height of its page, block and column in
texels (R44). -/
structure TexelGeometry where
  bits    : Nat
  pageW   : Nat
  pageH   : Nat
  blockW  : Nat
  blockH  : Nat
  columnW : Nat
  columnH : Nat
  deriving DecidableEq, Repr

/-- The rows of R44's table. -/
def texelGeometry : Format → TexelGeometry
  | .psmct32 => ⟨32, 64, 32, 8, 8, 8, 2⟩
  | .psmt8 => ⟨8, 128, 64, 16, 16, 16, 4⟩
  | .psmt4 => ⟨4, 128, 128, 32, 16, 32, 4⟩

end Sys2Proof.Machine
end

