-- ==== Sys2Proof/Machine/Operands.lean ====
section
/-! DEFINITION. The operands of a transfer (42_transfer.md R200 to R212, R225): the rectangle's texels, what a
texel takes from the input stream, the accesses it makes, and the resolution of an index through the CLUT. -/

namespace Sys2Proof.Machine

/-! ### Rectangle (R200, R201) -/

/-- A texel coordinate `(x, y)`, an unbounded non-negative pair (R200). -/
abbrev Texel := Nat × Nat

/-- `RECT(X, Y, W, H)`: row-major, y outer and x inner, both ascending (R200, R201). -/
def rect (x y w h : Nat) : List Texel :=
  (List.range h).flatMap fun j => (List.range w).map fun i => (x + i, y + j)

/-- The texels of a command, in texel order. -/
def texelsOf (a : Surface) (r : Extent) : List Texel := rect a.x.toNat a.y.toNat r.w.toNat r.h.toNat

/-- `n = W * H`, the number of texels (R200). -/
def texelCount (r : Extent) : Nat := r.w.toNat * r.h.toNat

/-! ### Addresses -/

/-- The PSMCT32 byte offset of a texel of the surface (R132). -/
def texel32 (a : Surface) (p : Texel) : Nat := addr32 a.bp.toNat a.bw.toNat p.1 p.2

/-- The PSMT8 byte offset of a texel of the surface (R133). -/
def texel8 (a : Surface) (p : Texel) : Nat := addr8 a.bp.toNat a.bw.toNat p.1 p.2

/-- The PSMT4 nibble offset of a texel of the surface (R134). -/
def texel4 (a : Surface) (p : Texel) : Nat := addr4 a.bp.toNat a.bw.toNat p.1 p.2

/-- The byte offset of a CLUT cell (R225). -/
def clutCell (c : ClutRef) (p : Texel) : Nat := addr32 c.cbp.toNat c.cbw.toNat p.1 p.2

/-! ### Footprint (R204) -/

/-- One memory access: its first and its last byte address. -/
structure Access where
  first : Nat
  last  : Nat
  deriving DecidableEq, Repr

/-- The bytes `o .. o+3`. -/
def wordAccess (o : Nat) : Access := ⟨o, o + 3⟩

/-- The byte `o`. -/
def byteAccess (o : Nat) : Access := ⟨o, o⟩

/-- The byte that holds nibble `q`. -/
def nibbleAccess (q : Nat) : Access := ⟨q >>> 1, q >>> 1⟩

/-- An access is in range when its last byte lies below `CAP` (R204). -/
def accessInRange (k : Access) : Bool := decide (k.last < Config.cap)

/-- The access of a texel of an upload, or of a 32-bit download, in a format (R204). -/
def texelAccess (f : Format) (a : Surface) (p : Texel) : List Access :=
  match f with
  | .psmct32 => [wordAccess (texel32 a p)]
  | .psmt8 => [byteAccess (texel8 a p)]
  | .psmt4 => [nibbleAccess (texel4 a p)]

/-! ### Input stream (R208, R209) -/

/-- `NEED`: the input bytes an upload of `n` texels needs (R208). -/
def inputNeed (f : Format) (n : Nat) : Nat :=
  match f with
  | .psmct32 => 4 * n
  | .psmt8 => n
  | .psmt4 => (n + 1) >>> 1

/-- `IN[k]` (R9). -/
def inputByte (input : List Byte) (k : Nat) : Byte := input.getD k 0

/-- The four bytes texel `t` of a 32-bit upload takes (R209). -/
def inputWord (input : List Byte) (t : Nat) : List Byte :=
  [inputByte input (4 * t), inputByte input (4 * t + 1), inputByte input (4 * t + 2), inputByte input (4 * t + 3)]

/-- The nibble texel `t` of a 4-bit upload takes: even-numbered texels the low nibble, with no padding at a row's
end (R209). -/
def inputNibble (input : List Byte) (t : Nat) : Nibble :=
  (inputByte input (t >>> 1) >>> (4 * (t &&& 1))).extractLsb' 0 4

/-! ### CLUT resolution (R210, R211, R212, R225) -/

/-- `CLUT8(i)`: the cell of an 8-bit index (R210). -/
def clut8 (i : Byte) : Texel :=
  ((i.toNat &&& 7) + (if i.getLsbD 4 then 8 else 0),
   ((i.toNat &&& 0xE0) >>> 4) + (if i.getLsbD 3 then 1 else 0))

/-- `CLUT4(i, csa)`: the cell of a 4-bit index; CSA is not masked (R211). -/
def clut4 (i : Nibble) (csa : BitVec 5) : Texel :=
  ((i.toNat &&& 7) + (if csa.getLsbD 0 then 8 else 0),
   (if i.getLsbD 3 then 1 else 0) + ((csa.toNat >>> 1) <<< 1))

/-- `ALPHA(a)`: the fixed override, or 255 where the sampled alpha's sign bit is set, or twice the sampled
alpha (R212). -/
def alphaOut (alpha : Option Byte) (a : Byte) : Byte :=
  match alpha with
  | some v => v
  | none => if a.getLsbD 7 then 255 else 2 * a

/-- `ClutRead(cx, cy)`: R, G and B as stored, the fourth byte through `ALPHA` (R225). -/
def clutRead (m : Memory) (c : ClutRef) (alpha : Option Byte) (p : Texel) : List Byte :=
  [readByte m (clutCell c p), readByte m (clutCell c p + 1), readByte m (clutCell c p + 2),
   alphaOut alpha (readByte m (clutCell c p + 3))]

/-- The CLUT cell of the 8-bit index stored at a texel (R220). -/
def cellOfTexel8 (m : Memory) (a : Surface) (p : Texel) : Texel := clut8 (readByte m (texel8 a p))

/-- The CLUT cell of the 4-bit index stored at a texel, its lane by address parity (R221). -/
def cellOfTexel4 (m : Memory) (a : Surface) (csa : BitVec 5) (p : Texel) : Texel :=
  clut4 (readNibble m (texel4 a p)) csa

/-- The accesses of a texel of DLIDX8: the index byte, then the CLUT cell of the index stored there (R204). -/
def indexAccesses8 (m : Memory) (a : Surface) (c : ClutRef) (p : Texel) : List Access :=
  [byteAccess (texel8 a p), wordAccess (clutCell c (cellOfTexel8 m a p))]

/-- The accesses of a texel of DLIDX4: the index nibble, then the CLUT cell of the index stored there (R204). -/
def indexAccesses4 (m : Memory) (a : Surface) (c : ClutRef) (csa : BitVec 5) (p : Texel) : List Access :=
  [nibbleAccess (texel4 a p), wordAccess (clutCell c (cellOfTexel4 m a csa p))]

end Sys2Proof.Machine
end

