-- ==== Sys2Proof/Machine/Flags.lean ====
section
/-! DEFINITION. The block has no condition flags (10_state.md R23; 42_transfer.md R227); what a command reports is
its STATUS. This file holds the status and fault codes (60_exceptions.md R250) and the checks a command makes
before its first access, in their order of priority (R258). -/

namespace Sys2Proof.Machine

/-- The numeric code of a fault (R250). -/
def faultCodeByte : FaultCode → Byte
  | .illegalOp => 0x10
  | .coordOverflow => 0x11
  | .outOfRange => 0x12
  | .inputUnderrun => 0x13

/-- The numeric code of a `STATUS` (R250). -/
def statusByte : Status → Byte
  | .ok => 0x00
  | .unsupported => 0x01
  | .faulted c => faultCodeByte c

/-- ILLEGAL_OP: everything but the code and the `OP` is zero (R252, R253). -/
def illegalOpFault (code : BitVec 8) : FaultRecord := ⟨.illegalOp, code, 0, 0, 0⟩

/-- COORD_OVERFLOW, when `X + W > 2048` or `Y + H > 2048` (R202, R254). -/
def coordFault (op : BitVec 8) (a : Surface) (r : Extent) : Option FaultRecord :=
  if a.x.toNat + r.w.toNat > Config.coordLimit ∨ a.y.toNat + r.h.toNat > Config.coordLimit then
    some ⟨.coordOverflow, op, a.x.toNat + r.w.toNat, a.y.toNat + r.h.toNat, 0⟩
  else none

/-- OUT_OF_RANGE, for the first texel in texel order with an access out of range, its accesses taken in their
order; the record holds that access's start address (R207, R252, R255). -/
def rangeFault (op : BitVec 8) (accesses : Texel → List Access) : List Texel → Option FaultRecord
  | [] => none
  | p :: ps =>
    match (accesses p).find? fun k => !accessInRange k with
    | some k => some ⟨.outOfRange, op, p.1, p.2, k.first⟩
    | none => rangeFault op accesses ps

/-- INPUT_UNDERRUN, when the input stream is shorter than `NEED` (R208, R256). -/
def inputFault (op : BitVec 8) (supplied need : Nat) : Option FaultRecord :=
  if supplied < need then some ⟨.inputUnderrun, op, supplied, need, 0⟩ else none

/-- The first fault of a transfer in the order of R258. A download needs no input: its `need` is zero. -/
def transferFault (op : BitVec 8) (a : Surface) (r : Extent) (accesses : Texel → List Access)
    (supplied need : Nat) : Option FaultRecord :=
  match coordFault op a r with
  | some k => some k
  | none =>
    match rangeFault op accesses (texelsOf a r) with
    | some k => some k
    | none => inputFault op supplied need

end Sys2Proof.Machine
end

