-- ==== Sys2Proof/Machine/Psm.lean ====
section
/-! DEFINITION. The pixel-storage format codes and their classification (30_encoding.md R92, R93;
90_conflicts.md C6). -/

namespace Sys2Proof.Machine

/-- A row of the PSM table: the code, the name, whether the source's enumeration lists it, and the format
whose transfer semantics it has, if any (R92). -/
structure PsmRow where
  code   : BitVec 6
  name   : String
  listed : Bool
  format : Option Format
  deriving DecidableEq, Repr

/-- The PSM codes (R92). -/
def psmTable : List PsmRow :=
  [⟨0x00, "PSMCT32", true, some .psmct32⟩,
   ⟨0x01, "PSMCT24", true, none⟩,
   ⟨0x02, "PSMCT16", true, none⟩,
   ⟨0x0A, "PSMCT16S", true, none⟩,
   ⟨0x13, "PSMT8", true, some .psmt8⟩,
   ⟨0x14, "PSMT4", true, some .psmt4⟩,
   ⟨0x24, "PSMT4HL", true, none⟩,
   ⟨0x2C, "PSMT4HH", true, none⟩,
   ⟨0x30, "PSMZ32", true, none⟩,
   ⟨0x31, "PSMZ24", true, none⟩,
   ⟨0x32, "PSMZ16", true, none⟩,
   ⟨0x3A, "PSMZ16S", true, none⟩,
   ⟨0x1B, "PSMT8H", false, none⟩]

/-- The three classes of a 6-bit PSM value (R93). -/
inductive PsmClass where
  | supported (f : Format)
  | recognised
  | unrecognised
  deriving DecidableEq, Repr

/-- The class of a row (R93). -/
def psmRowClass (r : PsmRow) : PsmClass :=
  match r.listed, r.format with
  | true, some f => .supported f
  | true, none => .recognised
  | false, _ => .unrecognised

/-- The class of a PSM value: a value outside the table is unrecognised (R93). -/
def psmClass (p : BitVec 6) : PsmClass :=
  match psmTable.find? (fun r => r.code == p) with
  | some r => psmRowClass r
  | none => .unrecognised

/-- The format a transfer with PSM value `p` uses; `none` where it has no transfer semantics (R93). -/
def psmFormat (p : BitVec 6) : Option Format :=
  match psmClass p with
  | .supported f => some f
  | .recognised => none
  | .unrecognised => none

/-- The code a format name stands for (R92, R80). -/
def psmOfName (name : String) : Option (BitVec 6) :=
  (psmTable.find? (fun r => r.name == name)).map PsmRow.code

end Sys2Proof.Machine
end

