-- ==== Sys2Proof/Machine/Ops.lean ====
section
/-! DEFINITION. The shared operations the meanings are made of: accepting a command, returning its result, taking
a fault (the block's only exception entry; no return from one exists, 60_exceptions.md R261, R262), the transfers
of 42_transfer.md, and taking a transaction from the command port. -/

namespace Sys2Proof.Machine

/-! ### Accepting and answering a command -/

/-- An instance with `FAULT = none` goes to the given state; a faulted instance accepts no command and has no
step (R22, R257). -/
def whenReady (s next : State) : Host.Outcome State Fault Refusal :=
  match s.fault with
  | none => .next next
  | some _ => .fault .quiescent

/-- Put the result of the command on the result port (R26). -/
def respond (s : State) (r : Response) : State := { s with results := s.results ++ [r] }

/-- Return `OK` with a result (R26, R250). -/
def finish (s : State) (r : Result) : State := respond s ⟨.ok, r⟩

/-- Return `UNSUPPORTED` with the empty stream: no check, no access, `FAULT` as it was (R251). -/
def answerUnsupported (s : State) : State := respond s ⟨.unsupported, .bytes []⟩

/-- Take a fault: `FAULT` holds the record, the command returns only the code, `MEM` is as it was (R252, R257,
R263). No other state is saved, no mode changes, control goes nowhere (R261). -/
def takeFault (s : State) (k : FaultRecord) : State :=
  respond { s with fault := some k } ⟨.faulted k.code, .nothing⟩

/-- Perform a checked command: it faults with the first fault its checks found, or goes to the state its own
effect gives (R258). -/
def checked (s : State) (k : Option FaultRecord) (done : State) : Host.Outcome State Fault Refusal :=
  match k with
  | some k => whenReady s (takeFault s k)
  | none => whenReady s done

/-! ### Uploads (R205, R209, R214 to R216) -/

/-- The write of texel `t`, at `p`, of an upload in a format. -/
def storeTexel (f : Format) (a : Surface) (input : List Byte) (t : Nat) (p : Texel) (m : Memory) : Memory :=
  match f with
  | .psmct32 => writeBytes m (texel32 a p) (inputWord input t)
  | .psmt8 => writeByte m (texel8 a p) (inputByte input t)
  | .psmt4 => writeNibble m (texel4 a p) (inputNibble input t)

/-- The writes of an upload, in texel order, the texels numbered from `t` (R201, R205). -/
def storeTexels (f : Format) (a : Surface) (input : List Byte) : Nat → List Texel → Memory → Memory
  | _, [], m => m
  | t, p :: ps, m => storeTexels f a input (t + 1) ps (storeTexel f a input t p m)

/-- An upload in a format, under the `OP` of the command that asks for it (R214 to R216, R222). Its RESULT is nothing, as
R26 has it, for an empty rectangle too, where R203 speaks of the empty stream (DESIGN CHOICE, log entry 19). -/
def upload (f : Format) (op : Op) (a : Surface) (r : Extent) (s : State) : Host.Outcome State Fault Refusal :=
  checked s
    (transferFault (opCode op) a r (texelAccess f a) s.input.length (inputNeed f (texelCount r)))
    (finish { s with mem := storeTexels f a s.input 0 (texelsOf a r) s.mem } .nothing)

/-! ### Downloads (R217 to R221) -/

/-- The PSMCT32 download under the `OP` of the command that asks for it (R217, R223). -/
def download (op : Op) (a : Surface) (r : Extent) (s : State) : Host.Outcome State Fault Refusal :=
  checked s
    (transferFault (opCode op) a r (texelAccess .psmct32 a) 0 0)
    (finish s (.bytes ((texelsOf a r).flatMap fun p => readBytes s.mem (texel32 a p) 4)))

/-- The PSMT8 indexed download (R220, R224). -/
def indexedDownload8 (op : Op) (a : Surface) (r : Extent) (c : ClutRef) (alpha : Option Byte) (s : State) :
    Host.Outcome State Fault Refusal :=
  checked s
    (transferFault (opCode op) a r (indexAccesses8 s.mem a c) 0 0)
    (finish s (.bytes ((texelsOf a r).flatMap fun p => clutRead s.mem c alpha (cellOfTexel8 s.mem a p))))

/-- The PSMT4 indexed download (R221, R224). -/
def indexedDownload4 (op : Op) (a : Surface) (r : Extent) (c : ClutRef) (csa : BitVec 5) (alpha : Option Byte)
    (s : State) : Host.Outcome State Fault Refusal :=
  checked s
    (transferFault (opCode op) a r (indexAccesses4 s.mem a c csa) 0 0)
    (finish s (.bytes ((texelsOf a r).flatMap fun p => clutRead s.mem c alpha (cellOfTexel4 s.mem a csa p))))

/-- The answer of a command whose format has no transfer semantics (R251). -/
def unsupportedTransfer (s : State) : Host.Outcome State Fault Refusal := whenReady s (answerUnsupported s)

/-! ### The command port -/

/-- Take the next transaction from the command port and put its input stream at the data-in port; `none` where
the host has issued no further command (R24, R25, R51). -/
def takeCommand (s : State) : Option (Command × State) :=
  match s.commands with
  | [] => none
  | c :: cs => some (c, { s with commands := cs, input := c.input })

/-- With no command, the instance holds its state unchanged (R269). -/
def idle (s : State) : Host.Outcome State Fault Refusal := .next s

/-- The answer to a descriptor the decoder rejects: an illegal `OP` takes the fault ILLEGAL_OP (R253); a
descriptor short of its words is no command of the spec and is refused (log entry 8); a faulted instance accepts
neither (R257). -/
def rejectDescriptor (e : DecodeError) (s : State) : Host.Outcome State Fault Refusal :=
  match s.fault, e with
  | some _, _ => .fault .quiescent
  | none, .illegalOp code => .next (takeFault s (illegalOpFault code))
  | none, .noCommandWord => .refused .incompleteDescriptor
  | none, .truncated _ => .refused .incompleteDescriptor

/-- The command a transaction's descriptor holds. Words beyond those its `OP` fixes are not read (log entry 9). -/
def decodeCommand (c : Command) : Except DecodeError Instr :=
  match decodeWords c.words with
  | .ok (i, _) => .ok i
  | .error e => .error e

/-- Issue a command ahead of every other the host has yet to issue. -/
def issueFirst (s : State) (c : Command) : State := { s with commands := c :: s.commands }

end Sys2Proof.Machine
end

