-- ==== Sys2Proof/Machine/Address.lean ====
section
/-! DEFINITION. The ADR class: the translator as commands (40_translator.md R132 to R134). -/

namespace Sys2Proof.Machine

/-- ADDR32: the texel's offset, a byte offset; no state is read or written and no fault is raised, even at or beyond
`CAP` (R132, R122, R259). -/
def execAddr32 (a : Surface) (s : State) : Host.Outcome State Fault Refusal :=
  whenReady s (finish s (.offset (texel32 a (a.x.toNat, a.y.toNat))))

/-- ADDR8: the texel's offset, a byte offset; no state is read or written and no fault is raised, even at or beyond
`CAP` (R133, R122, R259). -/
def execAddr8 (a : Surface) (s : State) : Host.Outcome State Fault Refusal :=
  whenReady s (finish s (.offset (texel8 a (a.x.toNat, a.y.toNat))))

/-- ADDR4: the texel's offset, a nibble offset; no state is read or written and no fault is raised, even at or beyond
`CAP` (R134, R122, R259). -/
def execAddr4 (a : Surface) (s : State) : Host.Outcome State Fault Refusal :=
  whenReady s (finish s (.offset (texel4 a (a.x.toNat, a.y.toNat))))


end Sys2Proof.Machine
end

