-- ==== Sys2Proof/Machine/Clear.lean ====
section
/-! DEFINITION. The CLR class (42_transfer.md R213). -/

namespace Sys2Proof.Machine

/-- CLEAR: every byte of `MEM` to zero; `FAULT` is not cleared, since a faulted instance accepts no command
(R213, R281). -/
def execClear (s : State) : Host.Outcome State Fault Refusal :=
  whenReady s (finish { s with mem := [] } .nothing)


end Sys2Proof.Machine
end

