-- ==== Sys2Proof/Machine/Dispatched.lean ====
section
/-! DEFINITION. The format-dispatched transfers (42_transfer.md R222 to R224). -/

namespace Sys2Proof.Machine

/-- XFER_UP: as the upload of the format W0.PSM names, else UNSUPPORTED with no check and no access (R222). The
fault record names this command's own `OP` (DEDUCED from R252, log entry 10). -/
def execXferUp (psm : BitVec 6) (a : Surface) (r : Extent) (s : State) : Host.Outcome State Fault Refusal :=
  match psmFormat psm with
  | some f => upload f .xferUp a r s
  | none => unsupportedTransfer s

/-- XFER_DOWN: as DOWNLOAD32 for PSMCT32; DOWNLOAD8, DOWNLOAD4 and every other format are UNSUPPORTED (R223). -/
def execXferDown (psm : BitVec 6) (a : Surface) (r : Extent) (s : State) : Host.Outcome State Fault Refusal :=
  match psmFormat psm with
  | some .psmct32 => download .xferDown a r s
  | some .psmt8 => unsupportedTransfer s
  | some .psmt4 => unsupportedTransfer s
  | none => unsupportedTransfer s

/-- XFER_DLIDX: as DLIDX8 for PSMT8 and as DLIDX4 for PSMT4; every other format, PSMCT32 included, is UNSUPPORTED
(R224). -/
def execXferDlidx (psm : BitVec 6) (a : Surface) (r : Extent) (c : ClutRef) (csa : BitVec 5)
    (alpha : Option Byte) (s : State) : Host.Outcome State Fault Refusal :=
  match psmFormat psm with
  | some .psmct32 => unsupportedTransfer s
  | some .psmt8 => indexedDownload8 .xferDlidx a r c alpha s
  | some .psmt4 => indexedDownload4 .xferDlidx a r c csa alpha s
  | none => unsupportedTransfer s


end Sys2Proof.Machine
end

