-- ==== Sys2Proof/Machine/Download.lean ====
section
/-! DEFINITION. The downloads of the MOV class (42_transfer.md R217 to R219). -/

namespace Sys2Proof.Machine

/-- DOWNLOAD32: the swizzled-to-linear PSMCT32 download; alpha is returned as stored (R217). -/
def execDownload32 (a : Surface) (r : Extent) (s : State) : Host.Outcome State Fault Refusal :=
  download .download32 a r s

/-- DOWNLOAD8: answered UNSUPPORTED, with no check and no access (R218, R251). -/
def execDownload8 (_a : Surface) (_r : Extent) (s : State) : Host.Outcome State Fault Refusal :=
  unsupportedTransfer s

/-- DOWNLOAD4: behaves exactly as DOWNLOAD8 (R219). -/
def execDownload4 (_a : Surface) (_r : Extent) (s : State) : Host.Outcome State Fault Refusal :=
  unsupportedTransfer s


end Sys2Proof.Machine
end

