-- ==== Sys2Proof/Machine/IndexedDownload.lean ====
section
/-! DEFINITION. The indexed downloads of the IDX class (42_transfer.md R220, R221). -/

namespace Sys2Proof.Machine

/-- DLIDX8: the PSMT8 indexed download with CLUT resolution (R220). -/
def execDlidx8 (a : Surface) (r : Extent) (c : ClutRef) (alpha : Option Byte) (s : State) :
    Host.Outcome State Fault Refusal :=
  indexedDownload8 .dlidx8 a r c alpha s

/-- DLIDX4: the PSMT4 indexed download with CLUT resolution and CLUT start address (R221). -/
def execDlidx4 (a : Surface) (r : Extent) (c : ClutRef) (csa : BitVec 5) (alpha : Option Byte) (s : State) :
    Host.Outcome State Fault Refusal :=
  indexedDownload4 .dlidx4 a r c csa alpha s


end Sys2Proof.Machine
end

