-- ==== Sys2Proof/Machine/RegisterDecode.lean ====
section
/-! DEFINITION. The DEC class: a raw register word to a field record (41_register_codec.md). Every word is accepted, no state is
read or written (R160, R259). -/

namespace Sys2Proof.Machine

/-- DEC_BITBLTBUF (R163). -/
def execDecBitbltbuf (rw : Word64) (s : State) : Host.Outcome State Fault Refusal :=
  whenReady s (finish s (.bitbltbuf (decodeBitbltbuf rw)))

/-- DEC_TRXPOS (R165). -/
def execDecTrxpos (rw : Word64) (s : State) : Host.Outcome State Fault Refusal :=
  whenReady s (finish s (.trxpos (decodeTrxpos rw)))

/-- DEC_TRXREG (R167). -/
def execDecTrxreg (rw : Word64) (s : State) : Host.Outcome State Fault Refusal :=
  whenReady s (finish s (.trxreg (decodeTrxreg rw)))

/-- DEC_TRXDIR (R169). -/
def execDecTrxdir (rw : Word64) (s : State) : Host.Outcome State Fault Refusal :=
  whenReady s (finish s (.trxdir (decodeTrxdir rw)))

/-- DEC_TEX0 (R171). -/
def execDecTex0 (rw : Word64) (s : State) : Host.Outcome State Fault Refusal :=
  whenReady s (finish s (.tex0 (decodeTex0 rw)))

/-- DEC_CLAMP (R173). -/
def execDecClamp (rw : Word64) (s : State) : Host.Outcome State Fault Refusal :=
  whenReady s (finish s (.clamp (decodeClamp rw)))

/-- DEC_TEX1 (R175). -/
def execDecTex1 (rw : Word64) (s : State) : Host.Outcome State Fault Refusal :=
  whenReady s (finish s (.tex1 (decodeTex1 rw)))

/-- DEC_TEX2 (R177). -/
def execDecTex2 (rw : Word64) (s : State) : Host.Outcome State Fault Refusal :=
  whenReady s (finish s (.tex2 (decodeTex2 rw)))


end Sys2Proof.Machine
end

