-- ==== Sys2Proof/Machine/RegisterEncode.lean ====
section
/-! DEFINITION. The ENC and PRJ classes: a field record to a register word, and TEX0 to TEX2 (41_register_codec.md). No state is read
or written (R161, R180). -/

namespace Sys2Proof.Machine

/-- ENC_BITBLTBUF (R164). -/
def execEncBitbltbuf (f : Bitbltbuf) (s : State) : Host.Outcome State Fault Refusal :=
  whenReady s (finish s (.word (encodeBitbltbuf f)))

/-- ENC_TRXPOS (R166). -/
def execEncTrxpos (f : Trxpos) (s : State) : Host.Outcome State Fault Refusal :=
  whenReady s (finish s (.word (encodeTrxpos f)))

/-- ENC_TRXREG (R168). -/
def execEncTrxreg (f : Trxreg) (s : State) : Host.Outcome State Fault Refusal :=
  whenReady s (finish s (.word (encodeTrxreg f)))

/-- ENC_TRXDIR (R170). -/
def execEncTrxdir (f : Trxdir) (s : State) : Host.Outcome State Fault Refusal :=
  whenReady s (finish s (.word (encodeTrxdir f)))

/-- ENC_TEX0 (R172). -/
def execEncTex0 (f : Tex0) (s : State) : Host.Outcome State Fault Refusal :=
  whenReady s (finish s (.word (encodeTex0 f)))

/-- ENC_CLAMP (R174). -/
def execEncClamp (f : Clamp) (s : State) : Host.Outcome State Fault Refusal :=
  whenReady s (finish s (.word (encodeClamp f)))

/-- ENC_TEX1 (R176). -/
def execEncTex1 (f : Tex1) (s : State) : Host.Outcome State Fault Refusal :=
  whenReady s (finish s (.word (encodeTex1 f)))

/-- ENC_TEX2 (R178). -/
def execEncTex2 (f : Tex2) (s : State) : Host.Outcome State Fault Refusal :=
  whenReady s (finish s (.word (encodeTex2 f)))

/-- TEX2_FROM_TEX0: the projection keeps every field TEX2 shares with TEX0 (R179). -/
def execTex2FromTex0 (f : Tex0) (s : State) : Host.Outcome State Fault Refusal :=
  whenReady s (finish s (.tex2 (projectTex2 f)))


end Sys2Proof.Machine
end

