-- ==== Sys2Proof/Machine/Upload.lean ====
section
/-! DEFINITION. The uploads of the MOV class (42_transfer.md R214 to R216). -/

namespace Sys2Proof.Machine

/-- UPLOAD32: the linear-to-swizzled PSMCT32 upload (R214). -/
def execUpload32 (a : Surface) (r : Extent) (s : State) : Host.Outcome State Fault Refusal :=
  upload .psmct32 .upload32 a r s

/-- UPLOAD8: the PSMT8 index upload (R215). -/
def execUpload8 (a : Surface) (r : Extent) (s : State) : Host.Outcome State Fault Refusal :=
  upload .psmt8 .upload8 a r s

/-- UPLOAD4: the PSMT4 index upload, a nibble read-modify-write per texel (R216). -/
def execUpload4 (a : Surface) (r : Extent) (s : State) : Host.Outcome State Fault Refusal :=
  upload .psmt4 .upload4 a r s


end Sys2Proof.Machine
end

