-- ==== Sys2Proof/Machine/Dispatch.lean ====
section
/-! DEFINITION. The dispatch of a decoded command to its meaning: one arm per row of the opcode table. -/

namespace Sys2Proof.Machine

def exec (i : Instr) (s : State) : Host.Outcome State Fault Refusal :=
  match i with
  | .clear => Sys2Proof.Machine.execClear s
  | .addr32 a => Sys2Proof.Machine.execAddr32 a s
  | .addr8 a => Sys2Proof.Machine.execAddr8 a s
  | .addr4 a => Sys2Proof.Machine.execAddr4 a s
  | .upload32 a r => Sys2Proof.Machine.execUpload32 a r s
  | .upload8 a r => Sys2Proof.Machine.execUpload8 a r s
  | .upload4 a r => Sys2Proof.Machine.execUpload4 a r s
  | .download32 a r => Sys2Proof.Machine.execDownload32 a r s
  | .download8 a r => Sys2Proof.Machine.execDownload8 a r s
  | .download4 a r => Sys2Proof.Machine.execDownload4 a r s
  | .dlidx8 a r c alpha => Sys2Proof.Machine.execDlidx8 a r c alpha s
  | .dlidx4 a r c csa alpha => Sys2Proof.Machine.execDlidx4 a r c csa alpha s
  | .xferUp psm a r => Sys2Proof.Machine.execXferUp psm a r s
  | .xferDown psm a r => Sys2Proof.Machine.execXferDown psm a r s
  | .xferDlidx psm a r c csa alpha => Sys2Proof.Machine.execXferDlidx psm a r c csa alpha s
  | .decBitbltbuf rw => Sys2Proof.Machine.execDecBitbltbuf rw s
  | .decTrxpos rw => Sys2Proof.Machine.execDecTrxpos rw s
  | .decTrxreg rw => Sys2Proof.Machine.execDecTrxreg rw s
  | .decTrxdir rw => Sys2Proof.Machine.execDecTrxdir rw s
  | .decTex0 rw => Sys2Proof.Machine.execDecTex0 rw s
  | .decClamp rw => Sys2Proof.Machine.execDecClamp rw s
  | .decTex1 rw => Sys2Proof.Machine.execDecTex1 rw s
  | .decTex2 rw => Sys2Proof.Machine.execDecTex2 rw s
  | .encBitbltbuf f => Sys2Proof.Machine.execEncBitbltbuf f s
  | .encTrxpos f => Sys2Proof.Machine.execEncTrxpos f s
  | .encTrxreg f => Sys2Proof.Machine.execEncTrxreg f s
  | .encTrxdir f => Sys2Proof.Machine.execEncTrxdir f s
  | .encTex0 f => Sys2Proof.Machine.execEncTex0 f s
  | .encClamp f => Sys2Proof.Machine.execEncClamp f s
  | .encTex1 f => Sys2Proof.Machine.execEncTex1 f s
  | .encTex2 f => Sys2Proof.Machine.execEncTex2 f s
  | .tex2FromTex0 f => Sys2Proof.Machine.execTex2FromTex0 f s

end Sys2Proof.Machine
end

