-- ==== Sys2Proof/Machine/Step.lean ====
section
/-! DEFINITION. One step of an instance: the next command the host has issued is taken from the command port,
decoded and executed as one atomic step (00_scope.md R5; 10_state.md R24; 20_memory.md R51). -/

namespace Sys2Proof.Machine

/-- One step. With no command issued the instance holds its state (R269). -/
def step (s : State) : Host.Outcome State Fault Refusal :=
  match takeCommand s with
  | none => idle s
  | some (c, t) =>
    match decodeCommand c with
    | .ok i => exec i t
    | .error e => rejectDescriptor e t

/-- `s` with the command whose descriptor has the bits `w` issued ahead of every other, with an empty input
stream, so that the next step takes and runs it (log entry 1). -/
def State.withFetchWord (s : State) (nbits w : Nat) : State :=
  issueFirst s { words := wordsOfNat nbits w, input := [] }

end Sys2Proof.Machine
end

