-- ==== Sys2Proof/Machine/Instances.lean ====
section
/-! DEFINITION. Several independent instances (10_state.md R27; 60_exceptions.md R267): each is a state of its own,
and a step of one is a step of that one alone. The machine behind Host/Core.lean is one instance (log entry 14). -/

namespace Sys2Proof.Machine

/-- Construct a further instance (R28, R280). -/
def construct (ss : List State) : List State := ss ++ [State.reset]

/-- A step of instance `k`; `none` where there is no such instance or it has no next state. -/
def stepInstance (k : Nat) (ss : List State) : Option (List State) :=
  match ss[k]? with
  | none => none
  | some s =>
    match step s with
    | .next t => some (ss.set k t)
    | .fault _ => none
    | .refused _ => none

end Sys2Proof.Machine
end

