-- ==== Sys2Proof/Safety.lean ====
section
/-! DEFINITION. What counts as a good state and a good run, in the terms claims use: the conditions under which a
transfer executes normally (42_transfer.md R202, R204, R207, R208), the invariant of an instance, and the
successful end of a run (10_state.md R32). -/

namespace Sys2Proof.Machine

/-! ### When a transfer executes normally -/

/-- The coordinate limit holds: `X + W <= 2048` and `Y + H <= 2048` (R202). -/
def coordsFit (a : Surface) (r : Extent) : Prop :=
  a.x.toNat + r.w.toNat ≤ 2048 ∧ a.y.toNat + r.h.toNat ≤ 2048

/-- The coordinates of the texel in column `i` and row `j` of the rectangle (R200). -/
def texelAt (a : Surface) (i j : Nat) : Texel := (a.x.toNat + i, a.y.toNat + j)

/-- Every texel access of a transfer in a format lies below `CAP` (R204, R207). -/
def surfaceFits (f : Format) (a : Surface) (r : Extent) : Prop :=
  ∀ i j, i < r.w.toNat → j < r.h.toNat →
    match f with
    | .psmct32 => texel32 a (texelAt a i j) + 3 < Config.cap
    | .psmt8 => texel8 a (texelAt a i j) < Config.cap
    | .psmt4 => texel4 a (texelAt a i j) / 2 < Config.cap

/-- Every CLUT cell an 8-bit indexed download reads lies below `CAP` (R204). -/
def clutFits8 (m : Memory) (a : Surface) (r : Extent) (c : ClutRef) : Prop :=
  ∀ i j, i < r.w.toNat → j < r.h.toNat → clutCell c (cellOfTexel8 m a (texelAt a i j)) + 3 < Config.cap

/-- Every CLUT cell a 4-bit indexed download reads lies below `CAP` (R204). -/
def clutFits4 (m : Memory) (a : Surface) (r : Extent) (c : ClutRef) (csa : BitVec 5) : Prop :=
  ∀ i j, i < r.w.toNat → j < r.h.toNat → clutCell c (cellOfTexel4 m a csa (texelAt a i j)) + 3 < Config.cap

/-! ### Invariant of an instance -/

/-- A fault record is one the spec allows: for each code, what its fields may hold (R252 to R256). -/
def faultRecordLegal (k : FaultRecord) : Prop :=
  match k.code with
  | .illegalOp => opOfCode k.op = none ∧ k.x = 0 ∧ k.y = 0 ∧ k.offset = 0
  | .coordOverflow => (k.x > 2048 ∨ k.y > 2048) ∧ k.offset = 0
  | .outOfRange => k.x < 2048 ∧ k.y < 2048 ∧ Config.cap ≤ k.offset
  | .inputUnderrun => k.x < k.y ∧ k.offset = 0

/-- The result port and `FAULT` agree: on a faulted instance the last response, and it alone, reports a fault, and
its code is the record's; on any other instance no response reports one (R22, R257). -/
def resultsAgree (s : State) : Prop :=
  match s.fault with
  | none => ∀ r ∈ s.results, ∀ c, r.status ≠ .faulted c
  | some k => ∃ rs, s.results = rs ++ [⟨.faulted k.code, .nothing⟩] ∧ ∀ r ∈ rs, ∀ c, r.status ≠ .faulted c

/-- The invariant of an instance: `MEM` is canonical and lies below `CAP`, the fault record is legal, and the
result port agrees with it. -/
def State.Inv (s : State) : Prop :=
  s.mem.wf = true ∧ (∀ k, s.fault = some k → faultRecordLegal k) ∧ resultsAgree s

/-! ### End of a run -/

/-- A run has ended well: every command issued has returned, and the last with `OK` or `UNSUPPORTED` (R32). -/
def endedWell (s : State) : Prop :=
  s.commands = [] ∧ s.fault = none ∧
    ∃ r, s.results.getLast? = some r ∧ (r.status = .ok ∨ r.status = .unsupported)

end Sys2Proof.Machine
end

