-- ==== Sys2Proof/Machine/Assembler.lean ====
section
/-! DEFINITION. The written form of a command (30_encoding.md R80): a line of text, the mnemonic and operands it
holds, and the command they stand for. An operand that does not fit its field is refused, never truncated. The
form of a line's text beyond R80 (spaces, the case of hexadecimal digits, a field named twice) is log entry 15. -/

namespace Sys2Proof.Machine

/-! ### Operands to a command -/

/-- An operand as written: a number, a format name, `IN=<bytes>`, `alpha=v`, or a list of `FIELD=value` (R80). -/
inductive Operand where
  | num (n : Nat)
  | psm (name : String)
  | bytes (bs : List Nat)
  | alpha (v : Nat)
  | fields (fs : List (String × Nat))
  deriving DecidableEq, Repr

/-- A written command: its operation and its operands in order (R80). -/
structure Line where
  op       : Op
  operands : List Operand
  deriving DecidableEq, Repr

/-- A number as a field of `w` bits; a number that does not fit is refused (R80). -/
def bitsOperand (w n : Nat) : Option (BitVec w) := if n < 2 ^ w then some (BitVec.ofNat w n) else none

/-- `bp, bw, x, y` (R80). -/
def surfaceOperands (bp bw x y : Nat) : Option Surface := do
  let bp ← bitsOperand 14 bp
  let bw ← bitsOperand 6 bw
  let x ← bitsOperand 11 x
  let y ← bitsOperand 11 y
  return ⟨bp, bw, x, y⟩

/-- `bp, bw, x, y, w, h` and the operands after them (R80). -/
def moveOperands : List Operand → Option (Surface × Extent × List Operand)
  | .num bp :: .num bw :: .num x :: .num y :: .num w :: .num h :: rest => do
    let a ← surfaceOperands bp bw x y
    let w ← bitsOperand 12 w
    let h ← bitsOperand 12 h
    return (a, ⟨w, h⟩, rest)
  | _ => none

/-- `cbp, cbw` and the operands after them (R80). -/
def clutOperands : List Operand → Option (ClutRef × List Operand)
  | .num cbp :: .num cbw :: rest => do
    let cbp ← bitsOperand 14 cbp
    let cbw ← bitsOperand 6 cbw
    return (⟨cbp, cbw⟩, rest)
  | _ => none

/-- `psm`: a code or a name of R92 (R80). -/
def psmOperand : Operand → Option (BitVec 6)
  | .num n => bitsOperand 6 n
  | .psm name => psmOfName name
  | .bytes _ => none
  | .alpha _ => none
  | .fields _ => none

/-- `[, alpha=v]`, the last operand; leaving it out sets AEN = 0 (R80). An override above 255 is refused (R71). -/
def alphaOperand : List Operand → Option (Option Byte)
  | [] => some none
  | [.alpha v] => (bitsOperand 8 v).map some
  | _ => none

/-- `IN=<bytes>`, the last operand (R80). -/
def inputOperand : List Operand → Option (List Byte)
  | [.bytes bs] => bs.mapM (bitsOperand 8)
  | _ => none

/-- No operand is left over. -/
def noOperand : List Operand → Option Unit
  | [] => some ()
  | _ => none

/-- A value of a field list is well-formed: the type has the field and the value fits it (R75, R80). -/
def fieldFits (fs : Layout) (v : String × Nat) : Bool :=
  fs.any fun f => f.name == v.1 && decide (v.2 < 2 ^ fieldWidth f)

/-- `{FIELD=value, ...}`: each field at most once, those left out zero (R80, R31). -/
def recordOperand (fs : Layout) : List Operand → Option Word64
  | [.fields vs] =>
    if vs.all (fieldFits fs) && decide ((vs.map Prod.fst).Nodup) then some (layoutEncode fs vs) else none
  | _ => none

/-- One 64-bit word (R80). -/
def wordOperand : List Operand → Option Word64
  | [.num n] => bitsOperand 64 n
  | _ => none

/-- An ADR command. -/
def assembleAddr (mk : Surface → Instr) : List Operand → Option (Instr × List Byte)
  | [.num bp, .num bw, .num x, .num y] => (surfaceOperands bp bw x y).map fun a => (mk a, [])
  | _ => none

/-- An upload: a move with its input stream. -/
def assembleUpload (mk : Surface → Extent → Instr) (ops : List Operand) : Option (Instr × List Byte) := do
  let (a, r, rest) ← moveOperands ops
  let input ← inputOperand rest
  return (mk a r, input)

/-- A download: a move with nothing more. -/
def assembleDownload (mk : Surface → Extent → Instr) (ops : List Operand) : Option (Instr × List Byte) := do
  let (a, r, rest) ← moveOperands ops
  noOperand rest
  return (mk a r, [])

/-- DLIDX8. -/
def assembleDlidx8 (ops : List Operand) : Option (Instr × List Byte) := do
  let (a, r, rest) ← moveOperands ops
  let (c, rest) ← clutOperands rest
  let alpha ← alphaOperand rest
  return (.dlidx8 a r c alpha, [])

/-- `csa`, and the operands after it: zero when left out (R80; log entry 15 for DLIDX4). -/
def csaOperand : List Operand → Option (BitVec 5 × List Operand)
  | .num csa :: rest => (bitsOperand 5 csa).map fun csa => (csa, rest)
  | rest => some (0, rest)

/-- DLIDX4. -/
def assembleDlidx4 (ops : List Operand) : Option (Instr × List Byte) := do
  let (a, r, rest) ← moveOperands ops
  let (c, rest) ← clutOperands rest
  let (csa, rest) ← csaOperand rest
  let alpha ← alphaOperand rest
  return (.dlidx4 a r c csa alpha, [])

/-- XFER_DLIDX after its `psm`. -/
def assembleXferDlidx (psm : BitVec 6) (ops : List Operand) : Option (Instr × List Byte) := do
  let (a, r, rest) ← moveOperands ops
  let (c, rest) ← clutOperands rest
  let (csa, rest) ← csaOperand rest
  let alpha ← alphaOperand rest
  return (.xferDlidx psm a r c csa alpha, [])

/-- An XFER command: `psm`, then the operands of the transfer (R80). -/
def assembleXfer (after : BitVec 6 → List Operand → Option (Instr × List Byte)) :
    List Operand → Option (Instr × List Byte)
  | o :: rest => do
    let psm ← psmOperand o
    after psm rest
  | [] => none

/-- A DEC command. -/
def assembleDec (mk : Word64 → Instr) (ops : List Operand) : Option (Instr × List Byte) :=
  (wordOperand ops).map fun rw => (mk rw, [])

/-- An ENC or PRJ command: the record its fields give. -/
def assembleRecord (fs : Layout) (mk : Word64 → Instr) (ops : List Operand) : Option (Instr × List Byte) :=
  (recordOperand fs ops).map fun w => (mk w, [])

/-- The decoded command and the input stream a written command stands for; `none` where an operand is missing,
left over, of another kind or too wide for its field (R80). -/
def assembleInstr (l : Line) : Option (Instr × List Byte) :=
  match l.op with
  | .clear => (noOperand l.operands).map fun _ => (.clear, [])
  | .addr32 => assembleAddr .addr32 l.operands
  | .addr8 => assembleAddr .addr8 l.operands
  | .addr4 => assembleAddr .addr4 l.operands
  | .upload32 => assembleUpload .upload32 l.operands
  | .upload8 => assembleUpload .upload8 l.operands
  | .upload4 => assembleUpload .upload4 l.operands
  | .download32 => assembleDownload .download32 l.operands
  | .download8 => assembleDownload .download8 l.operands
  | .download4 => assembleDownload .download4 l.operands
  | .dlidx8 => assembleDlidx8 l.operands
  | .dlidx4 => assembleDlidx4 l.operands
  | .xferUp => assembleXfer (fun psm => assembleUpload (.xferUp psm)) l.operands
  | .xferDown => assembleXfer (fun psm => assembleDownload (.xferDown psm)) l.operands
  | .xferDlidx => assembleXfer assembleXferDlidx l.operands
  | .decBitbltbuf => assembleDec .decBitbltbuf l.operands
  | .decTrxpos => assembleDec .decTrxpos l.operands
  | .decTrxreg => assembleDec .decTrxreg l.operands
  | .decTrxdir => assembleDec .decTrxdir l.operands
  | .decTex0 => assembleDec .decTex0 l.operands
  | .decClamp => assembleDec .decClamp l.operands
  | .decTex1 => assembleDec .decTex1 l.operands
  | .decTex2 => assembleDec .decTex2 l.operands
  | .encBitbltbuf => assembleRecord bitbltbufLayout (fun w => .encBitbltbuf (decodeBitbltbuf w)) l.operands
  | .encTrxpos => assembleRecord trxposLayout (fun w => .encTrxpos (decodeTrxpos w)) l.operands
  | .encTrxreg => assembleRecord trxregLayout (fun w => .encTrxreg (decodeTrxreg w)) l.operands
  | .encTrxdir => assembleRecord trxdirLayout (fun w => .encTrxdir (decodeTrxdir w)) l.operands
  | .encTex0 => assembleRecord tex0Layout (fun w => .encTex0 (decodeTex0 w)) l.operands
  | .encClamp => assembleRecord clampLayout (fun w => .encClamp (decodeClamp w)) l.operands
  | .encTex1 => assembleRecord tex1Layout (fun w => .encTex1 (decodeTex1 w)) l.operands
  | .encTex2 => assembleRecord tex2Layout (fun w => .encTex2 (decodeTex2 w)) l.operands
  | .tex2FromTex0 => assembleRecord tex0Layout (fun w => .tex2FromTex0 (decodeTex0 w)) l.operands

/-- The transaction a written command stands for: its descriptor words, reserved bits zero, and its input
stream (R76, R80). -/
def assemble (l : Line) : Option Command :=
  (assembleInstr l).map fun c => { words := encode c.1, input := c.2 }

/-! ### Text to operands -/

/-- The pieces of a text between the characters `sep`. -/
def splitText (sep : Char) : List Char → List (List Char)
  | [] => [[]]
  | c :: cs =>
    if c = sep then [] :: splitText sep cs
    else match splitText sep cs with
      | [] => [[c]]
      | g :: gs => (c :: g) :: gs

/-- A text without the spaces at its two ends. -/
def trimText (cs : List Char) : List Char :=
  ((cs.dropWhile (· == ' ')).reverse.dropWhile (· == ' ')).reverse

/-- The value of a digit, decimal or hexadecimal. -/
def digitValue (c : Char) : Option Nat :=
  if 48 ≤ c.toNat ∧ c.toNat ≤ 57 then some (c.toNat - 48)
  else if 97 ≤ c.toNat ∧ c.toNat ≤ 102 then some (c.toNat - 87)
  else if 65 ≤ c.toNat ∧ c.toNat ≤ 70 then some (c.toNat - 55)
  else none

/-- The value of the digits `cs` in a base, after a value already read. -/
def digitsValue (base : Nat) : Nat → List Char → Option Nat
  | n, [] => some n
  | n, c :: cs =>
    match digitValue c with
    | some d => if d < base then digitsValue base (base * n + d) cs else none
    | none => none

/-- A numeral of at least one digit in a base. -/
def numeral (base : Nat) : List Char → Option Nat
  | [] => none
  | cs => digitsValue base 0 cs

/-- A number: decimal, or hexadecimal after `0x` (R80). -/
def parseNumber : List Char → Option Nat
  | '0' :: 'x' :: ds => numeral 16 ds
  | ds => numeral 10 ds

/-- A list of hexadecimal bytes in stream order, with spaces between them (R80). -/
def parseBytes (cs : List Char) : Option (List Nat) :=
  ((splitText ' ' cs).filter fun b => !b.isEmpty).mapM (numeral 16)

/-- One operand of a list separated by commas (R80). -/
def parseOperand (cs : List Char) : Option Operand :=
  match trimText cs with
  | 'I' :: 'N' :: '=' :: bs => (parseBytes bs).map .bytes
  | 'a' :: 'l' :: 'p' :: 'h' :: 'a' :: '=' :: v => (parseNumber v).map .alpha
  | t =>
    match parseNumber t with
    | some n => some (.num n)
    | none => (psmOfName (String.ofList t)).map fun _ => .psm (String.ofList t)

/-- `FIELD=value` (R80). -/
def parseField (cs : List Char) : Option (String × Nat) :=
  match splitText '=' (trimText cs) with
  | [name, v] => (parseNumber (trimText v)).map fun n => (String.ofList (trimText name), n)
  | _ => none

/-- The fields of a record, written between its braces (R80). -/
def parseFields (cs : List Char) : Option (List (String × Nat)) :=
  if (trimText cs).isEmpty then some [] else (splitText ',' cs).mapM parseField

/-- The operands after the mnemonic: none, a record in braces (characters 123 and 125), or a list (R80). -/
def parseOperands (cs : List Char) : Option (List Operand) :=
  match trimText cs with
  | [] => some []
  | c :: t =>
    if c.toNat = 123 then
      match t.reverse with
      | d :: inside => if d.toNat = 125 then (parseFields inside.reverse).map fun fs => [.fields fs] else none
      | [] => none
    else (splitText ',' (c :: t)).mapM parseOperand

/-- A line of text: the mnemonic, then its operands (R80). -/
def parseLine (text : String) : Option Line := do
  let cs := trimText text.toList
  let op ← opOfMnemonic (String.ofList (cs.takeWhile (· != ' ')))
  let operands ← parseOperands (cs.dropWhile (· != ' '))
  return { op := op, operands := operands }

/-- The transaction a line of text stands for (R80). -/
def assembleText (text : String) : Option Command := (parseLine text).bind assemble

end Sys2Proof.Machine
end

