-- ==== Sys2Proof/WellFormed.lean ====
section
/-! DEFINITION. What is well-formed. A term of `Instr` is so by its type: every field has exactly the width the
spec gives it (30_encoding.md R75), so nothing is left to check. What can be ill-formed is a command as the host
writes it (R80), checked by `Line.wellFormed`, and a descriptor as the host sends it (R70), checked by
`Command.wellFormed`. Beside them stands what a written command means, for the statements about the assembler. -/

namespace Sys2Proof.Machine

/-- A written command is well-formed: its operands are those of its mnemonic, in order, each fitting its field
(R80). -/
def Line.wellFormed (l : Line) : Bool := (assembleInstr l).isSome

/-- A transaction is well-formed: its first word holds a legal `OP` and it has exactly the words that `OP` fixes
(R70, R78). -/
def Command.wellFormed (c : Command) : Bool :=
  match c.words with
  | [] => false
  | w0 :: ws =>
    match opOfCode (opField w0) with
    | none => false
    | some op => ws.length + 1 == opWords op

/-! ### What a written command stands for, told from R80 and the field widths alone (no part of the assembler) -/

/-- `bp, bw, x, y` fit their fields (R72, R80). -/
abbrev surfaceOperandsFit (bp bw x y : Nat) : Prop := bp < 16384 ∧ bw < 64 ∧ x < 2048 ∧ y < 2048

/-- The surface that `bp, bw, x, y` stand for where they fit. -/
def surfaceMeant (bp bw x y : Nat) : Surface :=
  ⟨BitVec.ofNat 14 bp, BitVec.ofNat 6 bw, BitVec.ofNat 11 x, BitVec.ofNat 11 y⟩

/-- `w, h` fit their fields (R73, R80). -/
abbrev extentOperandsFit (w h : Nat) : Prop := w < 4096 ∧ h < 4096

/-- The rectangle that `w, h` stand for where they fit. -/
def extentMeant (w h : Nat) : Extent := ⟨BitVec.ofNat 12 w, BitVec.ofNat 12 h⟩

/-- `cbp, cbw` fit their fields (R74, R80). -/
abbrev clutOperandsFit (cbp cbw : Nat) : Prop := cbp < 16384 ∧ cbw < 64

/-- The CLUT reference that `cbp, cbw` stand for where they fit. -/
def clutMeant (cbp cbw : Nat) : ClutRef := ⟨BitVec.ofNat 14 cbp, BitVec.ofNat 6 cbw⟩

/-- The names of the PSM codes (R92). -/
def psmNames : List (String × BitVec 6) :=
  [("PSMCT32", 0x00), ("PSMCT24", 0x01), ("PSMCT16", 0x02), ("PSMCT16S", 0x0A), ("PSMT8", 0x13), ("PSMT4", 0x14),
   ("PSMT4HL", 0x24), ("PSMT4HH", 0x2C), ("PSMZ32", 0x30), ("PSMZ24", 0x31), ("PSMZ16", 0x32), ("PSMZ16S", 0x3A),
   ("PSMT8H", 0x1B)]

/-- The written operand `o` stands for the PSM value `p`: a code that fits six bits, or a name of R92 (R80). -/
def psmMeant : Operand → BitVec 6 → Prop
  | .num n, p => n < 64 ∧ p = BitVec.ofNat 6 n
  | .psm name, p => (name, p) ∈ psmNames
  | .bytes _, _ => False
  | .alpha _, _ => False
  | .fields _, _ => False

/-- The operands after the others of an indexed download stand for the optional fixed alpha: none for AEN = 0, or
`alpha=v` with a value that fits eight bits (R71, R80). -/
def alphaMeant : List Operand → Option Byte → Prop
  | [], alpha => alpha = none
  | [.alpha v], alpha => v < 256 ∧ alpha = some (BitVec.ofNat 8 v)
  | _, _ => False

/-- The values of a record fit: each names a field of the type, with the width `widths` gives it, and fits that width
(R75, R80); no field is named twice (log entry 15). -/
abbrev recordFits (widths : List (String × Nat)) (vs : List (String × Nat)) : Prop :=
  (∀ v ∈ vs, ∃ f ∈ widths, f.1 = v.1 ∧ v.2 < 2 ^ f.2) ∧ (vs.map Prod.fst).Nodup

/-- The value a record gives a field: zero where the field is left out (R31, R80). -/
def fieldMeant (vs : List (String × Nat)) (name : String) (w : Nat) : BitVec w :=
  BitVec.ofNat w ((vs.lookup name).getD 0)

/-- A written command is assembled exactly when its operands fit, and then to the descriptor of the command meant,
with its input stream (R80). -/
def assemblesTo (op : Op) (operands : List Operand) (fits : Prop) (i : Instr) (input : List Byte) : Prop :=
  (fits → ∃ c, assemble ⟨op, operands⟩ = some c ∧ decodeCommand c = .ok i ∧ c.input = input) ∧
  (¬ fits → assemble ⟨op, operands⟩ = none)

end Sys2Proof.Machine
end

