-- ==== Sys2Proof/Certificates/Slice0/Obligations.lean ====
section
/-! DEFINITION. The statements for the provers. Each docstring names the rule of spec/ the statement formalises. -/

open Sys2Proof Sys2Proof.Machine

/-! ### Reset, steps and the invariant -/

/-- R30: on construction every byte of `MEM` is zero and `FAULT` is none. -/
def Obligations.ResetIsZeroAndUnfaulted : Prop :=
  (∀ a, a < 4194304 → readByte State.reset.mem a = 0) ∧ State.reset.fault = none

/-- Construction meets the invariant of an instance (R21, R22, R30). The empty ports are the model's choice (log
entries 1, 6, 7). -/
def Obligations.ResetMeetsInvariant : Prop := State.reset.Inv

/-- Every step keeps the invariant, from every state that meets it: `MEM` is canonical and lies below `CAP`, the fault
record is one R252 allows, and the result port reports a fault exactly when `FAULT` holds one. The result port as a
field of State is the model's choice (log entry 7). -/
def Obligations.StepKeepsInvariant : Prop :=
  ∀ s t : State, s.Inv → step s = .next t → t.Inv

/-- A step runs the command decoded from the next transaction, with that transaction's input stream at the data-in
port and the transaction taken from the command port (R5, R24, R25, R51). The ports as fields of State are the model's
choice (log entries 1, 6), and so is that words after those the OP fixes are dropped (`rest`; log entry 9). -/
def Obligations.StepRunsTheDecodedCommand : Prop :=
  ∀ (s : State) (c : Command) (cs : List Command) (i : Instr) (rest : List Word64),
    s.commands = c :: cs → decodeWords c.words = .ok (i, rest) →
      step s = exec i { s with commands := cs, input := c.input }

/-- With no command issued a step changes nothing (R269; that such a step is a next state is the model's reading, log
entry 2); with a descriptor short of its words the step is refused by name (the model's choice, log entry 8). -/
def Obligations.StepWithoutACommand : Prop :=
  (∀ s : State, s.commands = [] → step s = .next s) ∧
  (∀ (s : State) (c : Command) (cs : List Command), s.commands = c :: cs → s.fault = none →
    ((∃ op, decodeWords c.words = .error (.truncated op)) ∨ c.words = []) →
      step s = .refused .incompleteDescriptor)

/-- R22, R257: a faulted instance accepts no command, whatever it is, and no step changes its state. That the model
shows this as a stop, `Fault.quiescent`, is its reading (log entry 3). -/
def Obligations.FaultedInstanceIsQuiescent : Prop :=
  ∀ (s : State) (k : FaultRecord), s.fault = some k →
    (∀ i, exec i s = .fault .quiescent) ∧
    (∀ c cs, s.commands = c :: cs → step s = .fault .quiescent) ∧
    (∀ t, step s = .next t → t = s)

/-- Every command offered to an instance that has not faulted is answered: a next state with exactly one more
response, whose status is a fault code exactly when the instance has just faulted with that code; the ports of
commands and input are as they were (R26, R250). The ports as fields of State are the model's choice (log entries 1,
6, 7), and a fault as a next state is its reading (log entry 4). -/
def Obligations.EveryAcceptedCommandAnswersOnce : Prop :=
  ∀ (i : Instr) (s : State), s.fault = none →
    ∃ t r, exec i s = .next t ∧ t.results = s.results ++ [r] ∧ t.commands = s.commands ∧ t.input = s.input ∧
      (∀ c, r.status = .faulted c ↔ ∃ k, t.fault = some k ∧ k.code = c)

/-- R263, R257: a command that faults changes nothing but `FAULT`, and returns only the code. A fault as a next state
is the model's reading (log entry 4). -/
def Obligations.FaultingCommandChangesOnlyFault : Prop :=
  ∀ (i : Instr) (s t : State) (k : FaultRecord), exec i s = .next t → t.fault = some k →
    t = { s with fault := some k, results := s.results ++ [⟨.faulted k.code, .nothing⟩] }

/-- R227: only CLEAR, the uploads and XFER_UP change `MEM`. -/
def Obligations.OnlyClearAndUploadsWriteMemory : Prop :=
  ∀ (i : Instr) (s t : State), exec i s = .next t →
    opOf i ≠ .clear → opOf i ≠ .upload32 → opOf i ≠ .upload8 → opOf i ≠ .upload4 → opOf i ≠ .xferUp →
      t.mem = s.mem

/-- What a command does to `MEM` and `FAULT`, and what it returns, is a function of the command, `MEM`, `FAULT` and
the input stream: neither the results returned before nor the commands still to come can be told from it (R23, R51,
R180). -/
def Obligations.EffectDependsOnMemFaultInput : Prop :=
  ∀ (i : Instr) (s t s' : State), s'.mem = s.mem → s'.fault = s.fault → s'.input = s.input → exec i s = .next t →
    ∃ t' r, exec i s' = .next t' ∧ t'.mem = t.mem ∧ t'.fault = t.fault ∧
      t.results = s.results ++ [r] ∧ t'.results = s'.results ++ [r]

/-- R25: only the uploads read the input stream; every other command ignores it. -/
def Obligations.OnlyUploadsReadInput : Prop :=
  ∀ (i : Instr) (s t : State) (bs : List Byte), exec i s = .next t →
    opOf i ≠ .upload32 → opOf i ≠ .upload8 → opOf i ≠ .upload4 → opOf i ≠ .xferUp →
      exec i { s with input := bs } = .next { t with input := bs }

/-- R27: a step of one instance is a step of that instance alone; every other stays as it was. -/
def Obligations.InstancesAreIndependent : Prop :=
  ∀ (k : Nat) (ss ss' : List State), stepInstance k ss = some ss' →
    ss'.length = ss.length ∧
    (∃ s t, ss[k]? = some s ∧ step s = .next t ∧ ss'[k]? = some t) ∧
    ∀ j, j ≠ k → ss'[j]? = ss[j]?

/-! ### Encoding -/

/-- R78, R253: an `OP` outside the operation map faults ILLEGAL_OP and has no other effect; the rest of the descriptor
and the input stream are not looked at. The ports as fields of State are the model's choice (log entries 1, 6, 7), and
a fault as a next state is its reading (log entry 4). -/
def Obligations.IllegalOpFaults : Prop :=
  ∀ (s : State) (c : Command) (cs : List Command) (w0 : Word64) (ws : List Word64) (n : Nat),
    s.fault = none → s.commands = c :: cs → c.words = w0 :: ws → n = w0.toNat % 256 →
    (n = 0 ∨ (2 ≤ n ∧ n ≤ 0x0F) ∨ (0x13 ≤ n ∧ n ≤ 0x1F) ∨ (0x23 ≤ n ∧ n ≤ 0x2F) ∨ (0x33 ≤ n ∧ n ≤ 0x3F) ∨
      (0x42 ≤ n ∧ n ≤ 0x4F) ∨ (0x53 ≤ n ∧ n ≤ 0x7F) ∨ (0x88 ≤ n ∧ n ≤ 0x8F) ∨ (0x98 ≤ n ∧ n ≤ 0x9F) ∨
      0xA1 ≤ n) →
      step s = .next { s with
        commands := cs, input := c.input,
        fault := some ⟨.illegalOp, BitVec.ofNat 8 n, 0, 0, 0⟩,
        results := s.results ++ [⟨.faulted .illegalOp, .nothing⟩] }

/-- The operation map of R77: each legal `OP` value, its operation, and the number of words after W0 (R70). That the
record of ENC (0x90 to 0x97) and PRJ (0xA0) is one word is the model's choice (log entry 5). -/
def Sys2Proof.Machine.operationRows : List (Nat × Op × Nat) :=
  [(0x01, .clear, 0), (0x10, .addr32, 1), (0x11, .addr8, 1), (0x12, .addr4, 1),
   (0x20, .upload32, 2), (0x21, .upload8, 2), (0x22, .upload4, 2),
   (0x30, .download32, 2), (0x31, .download8, 2), (0x32, .download4, 2),
   (0x40, .dlidx8, 3), (0x41, .dlidx4, 3), (0x50, .xferUp, 2), (0x51, .xferDown, 2), (0x52, .xferDlidx, 3)] ++
  [(0x80, .decBitbltbuf, 1), (0x81, .decTrxpos, 1), (0x82, .decTrxreg, 1), (0x83, .decTrxdir, 1),
   (0x84, .decTex0, 1), (0x85, .decClamp, 1), (0x86, .decTex1, 1), (0x87, .decTex2, 1),
   (0x90, .encBitbltbuf, 1), (0x91, .encTrxpos, 1), (0x92, .encTrxreg, 1), (0x93, .encTrxdir, 1),
   (0x94, .encTex0, 1), (0x95, .encClamp, 1), (0x96, .encTex1, 1), (0x97, .encTex2, 1), (0xA0, .tex2FromTex0, 1)]

/-- R70, R77: every `OP` of the operation map decodes to its row's operation, whatever the other bits of W0, and takes
exactly the words of its class: 1 for CLEAR, 3 for the MOV class, 4 for the IDX class, 2 for every other; with fewer
words it is no command. That ENC and PRJ take 2 words is the model's choice (log entry 5), as is what becomes of a
longer or shorter list of words (log entries 8, 9). -/
def Obligations.LegalOpTakesTheWordsOfItsClass : Prop :=
  ∀ (n k : Nat) (op : Op) (w0 : Word64) (ws : List Word64), (n, op, k) ∈ operationRows → n = w0.toNat % 256 →
    (k ≤ ws.length → ∃ i, decodeWords (w0 :: ws) = .ok (i, ws.drop k) ∧ opOf i = op) ∧
    (ws.length < k → decodeWords (w0 :: ws) = .error (.truncated op))

/-- Decoding the words of any command, every operand at every value its field admits, gives that command and the
words after it (R70 to R77). That ENC and PRJ carry their record as a word is the model's choice (log entry 5). -/
def Obligations.DecodeInvertsEncode : Prop :=
  ∀ (i : Instr) (rest : List Word64), decodeWords (encode i ++ rest) = .ok (i, rest)

/-- R46: the same for the bytes that carry the words, the least significant byte first. That ENC and PRJ carry their
record as a word is the model's choice (log entry 5). -/
def Obligations.DecodeInvertsEncodeOnBytes : Prop :=
  ∀ (i : Instr) (rest : List Byte), decodeBytes (encodeBytes i ++ rest) = .ok (i, rest)

/-- R76: a command decodes as it would with every reserved bit of the descriptor words of R71 to R74, and every field
its operation does not use, zero. That the record of ENC and PRJ is all of W1 and no other word is the model's choice
(log entry 5; nothing is said here of the bits of that word outside the register's fields), and so is that words after
those the OP fixes are not read (log entry 9): of the four words here CLEAR reads one, the MOV class three, the IDX
class four and every other two. -/
def Obligations.ReservedAndUnusedBitsAreIgnored : Prop :=
  ∀ (w0 w1 w2 w3 : Word64) (input : List Byte) (n : Nat), n = w0.toNat % 256 →
    decodeCommand ⟨[w0, w1, w2, w3], input⟩ =
      decodeCommand ⟨[
        w0 &&& (if n = 0x40 then 0xFF0100FF#64 else if n = 0x41 then 0x1FFF0100FF#64
          else if n = 0x50 ∨ n = 0x51 then 0x3FFF#64 else if n = 0x52 then 0x1FFF013FFF#64 else 0xFF#64),
        (if n < 0x80 then w1 &&& 0x07FF07FF003F3FFF#64 else w1),
        w2 &&& 0x00000FFF00000FFF#64,
        w3 &&& 0x00000000003F3FFF#64], input⟩

/-- R81 and the worked encodings of 95_test_vectors.md (V-ENC): the words of these commands decode to them. -/
def Obligations.WorkedEncodingsDecode : Prop :=
  decodeWords [0x20#64, 0x10000#64, 0x200000002#64] = .ok (.upload32 ⟨0, 1, 0, 0⟩ ⟨2, 2⟩, []) ∧
  decodeWords [0x380010041#64, 0x20020#64, 0x100000001#64, 0x10040#64] =
    .ok (.dlidx4 ⟨0x20, 2, 0, 0⟩ ⟨1, 1⟩ ⟨0x40, 1⟩ 3 (some 128), []) ∧
  decodeWords [0x10#64, 0x0001000700010000#64] = .ok (.addr32 ⟨0, 1, 7, 1⟩, []) ∧
  decodeWords [0x1350#64, 0x20000#64, 0x100000002#64] = .ok (.xferUp 0x13 ⟨0, 2, 0, 0⟩ ⟨2, 1⟩, []) ∧
  decodeWords [0x84#64, 0x2300080599404000#64] = .ok (.decTex0 0x2300080599404000#64, []) ∧
  decodeWords [0x1#64] = .ok (.clear, [])

/-- R80, with the widths of R71 to R74: a written command of the CLR, ADR, MOV or IDX class is assembled exactly when
each operand fits its field, and then to the command with those operands and that input; nothing is truncated. `psm`
is a code or a name of R92; an alpha left out is AEN = 0, and csa left out of XFER_DLIDX is zero. Whatever is
assembled is a well-formed transaction that decodes to the command read. That last clause runs over the lines of every
class: that ENC and PRJ carry their record as a word is the model's choice (log entry 5). DLIDX4 with csa left out
(log entry 15) is spoken of by that clause alone. -/
def Obligations.AssemblerRefusesTransferOperandsThatDoNotFit : Prop :=
  (∀ (bp bw x y w h cbp cbw csa : Nat) (bs : List Nat) (a : Surface) (r : Extent) (c : ClutRef) (input : List Byte)
      (move idx : List Operand) (moveFits inputFits idxFits : Prop),
    a = surfaceMeant bp bw x y → r = extentMeant w h → c = clutMeant cbp cbw → input = bs.map (BitVec.ofNat 8) →
    move = [.num bp, .num bw, .num x, .num y, .num w, .num h] → idx = move ++ [.num cbp, .num cbw] →
    moveFits = (surfaceOperandsFit bp bw x y ∧ extentOperandsFit w h) → inputFits = (moveFits ∧ ∀ b ∈ bs, b < 256) →
    idxFits = (moveFits ∧ clutOperandsFit cbp cbw) →
    (assemblesTo .clear [] True .clear [] ∧
      assemblesTo .addr32 [.num bp, .num bw, .num x, .num y] (surfaceOperandsFit bp bw x y) (.addr32 a) [] ∧
      assemblesTo .addr8 [.num bp, .num bw, .num x, .num y] (surfaceOperandsFit bp bw x y) (.addr8 a) [] ∧
      assemblesTo .addr4 [.num bp, .num bw, .num x, .num y] (surfaceOperandsFit bp bw x y) (.addr4 a) []) ∧
    (assemblesTo .upload32 (move ++ [.bytes bs]) inputFits (.upload32 a r) input ∧
      assemblesTo .upload8 (move ++ [.bytes bs]) inputFits (.upload8 a r) input ∧
      assemblesTo .upload4 (move ++ [.bytes bs]) inputFits (.upload4 a r) input) ∧
    (assemblesTo .download32 move moveFits (.download32 a r) [] ∧
      assemblesTo .download8 move moveFits (.download8 a r) [] ∧
      assemblesTo .download4 move moveFits (.download4 a r) []) ∧
    (∀ (tail : List Operand) (alpha : Option Byte), alphaMeant tail alpha →
      assemblesTo .dlidx8 (idx ++ tail) idxFits (.dlidx8 a r c alpha) [] ∧
      assemblesTo .dlidx4 (idx ++ [.num csa] ++ tail) (idxFits ∧ csa < 32)
        (.dlidx4 a r c (BitVec.ofNat 5 csa) alpha) []) ∧
    (∀ v, 256 ≤ v → assemble ⟨.dlidx8, idx ++ [.alpha v]⟩ = none ∧
      assemble ⟨.dlidx4, idx ++ [.num csa] ++ [.alpha v]⟩ = none) ∧
    (∀ (o : Operand) (psm : BitVec 6), psmMeant o psm →
      assemblesTo .xferUp (o :: move ++ [.bytes bs]) inputFits (.xferUp psm a r) input ∧
      assemblesTo .xferDown (o :: move) moveFits (.xferDown psm a r) [] ∧
      ∀ (tail : List Operand) (alpha : Option Byte), alphaMeant tail alpha →
        assemblesTo .xferDlidx (o :: idx ++ tail) idxFits (.xferDlidx psm a r c 0 alpha) [] ∧
        assemblesTo .xferDlidx (o :: idx ++ [.num csa] ++ tail) (idxFits ∧ csa < 32)
          (.xferDlidx psm a r c (BitVec.ofNat 5 csa) alpha) []) ∧
    (∀ (o : Operand) (v : Nat), 256 ≤ v → assemble ⟨.xferDlidx, o :: idx ++ [.alpha v]⟩ = none ∧
      assemble ⟨.xferDlidx, o :: idx ++ [.num csa] ++ [.alpha v]⟩ = none) ∧
    (∀ (o : Operand) (tail : List Operand), (∀ psm, ¬ psmMeant o psm) →
      assemble ⟨.xferUp, o :: tail⟩ = none ∧ assemble ⟨.xferDown, o :: tail⟩ = none ∧
      assemble ⟨.xferDlidx, o :: tail⟩ = none)) ∧
  (∀ (l : Line) (c : Command), assemble l = some c →
    ∃ i, assembleInstr l = some (i, c.input) ∧ decodeCommand c = .ok i ∧ c.wellFormed = true)

/-- R80, with R75 and the widths of R83 to R90: a written DEC command is assembled exactly when its word has 64 bits; a
written ENC command or TEX2_FROM_TEX0 exactly when each value names a field of its register and fits that field, and
then to the command with those values, a field left out being zero (R31). That a field named twice is refused is the
model's choice (log entry 15), and so are the words that carry the record (log entry 5). -/
def Obligations.AssemblerRefusesRegisterOperandsThatDoNotFit : Prop :=
  (∀ (v : Nat) (rw : Word64), rw = BitVec.ofNat 64 v →
    assemblesTo .decBitbltbuf [.num v] (v < 2 ^ 64) (.decBitbltbuf rw) [] ∧
    assemblesTo .decTrxpos [.num v] (v < 2 ^ 64) (.decTrxpos rw) [] ∧
    assemblesTo .decTrxreg [.num v] (v < 2 ^ 64) (.decTrxreg rw) [] ∧
    assemblesTo .decTrxdir [.num v] (v < 2 ^ 64) (.decTrxdir rw) [] ∧
    assemblesTo .decTex0 [.num v] (v < 2 ^ 64) (.decTex0 rw) [] ∧
    assemblesTo .decClamp [.num v] (v < 2 ^ 64) (.decClamp rw) [] ∧
    assemblesTo .decTex1 [.num v] (v < 2 ^ 64) (.decTex1 rw) [] ∧
    assemblesTo .decTex2 [.num v] (v < 2 ^ 64) (.decTex2 rw) []) ∧
  ∀ (vs : List (String × Nat)) (field : ∀ (_ : String) (w : Nat), BitVec w) (tex0Widths : List (String × Nat))
      (tex0 : Tex0), field = fieldMeant vs →
    tex0Widths = [("TBP0", 14), ("TBW", 6), ("PSM", 6), ("TW", 4), ("TH", 4), ("TCC", 1), ("TFX", 2), ("CBP", 14),
      ("CPSM", 4), ("CSM", 1), ("CSA", 5), ("CLD", 3)] →
    tex0 = ⟨field "TBP0" 14, field "TBW" 6, field "PSM" 6, field "TW" 4, field "TH" 4, field "TCC" 1, field "TFX" 2,
      field "CBP" 14, field "CPSM" 4, field "CSM" 1, field "CSA" 5, field "CLD" 3⟩ →
    assemblesTo .encBitbltbuf [.fields vs]
      (recordFits [("SBP", 14), ("SBW", 6), ("SPSM", 6), ("DBP", 14), ("DBW", 6), ("DPSM", 6)] vs)
      (.encBitbltbuf ⟨field "SBP" 14, field "SBW" 6, field "SPSM" 6, field "DBP" 14, field "DBW" 6,
        field "DPSM" 6⟩) [] ∧
    assemblesTo .encTrxpos [.fields vs]
      (recordFits [("SSAX", 11), ("SSAY", 11), ("DSAX", 11), ("DSAY", 11), ("DIR", 2)] vs)
      (.encTrxpos ⟨field "SSAX" 11, field "SSAY" 11, field "DSAX" 11, field "DSAY" 11, field "DIR" 2⟩) [] ∧
    assemblesTo .encTrxreg [.fields vs] (recordFits [("RRW", 12), ("RRH", 12)] vs)
      (.encTrxreg ⟨field "RRW" 12, field "RRH" 12⟩) [] ∧
    assemblesTo .encTrxdir [.fields vs] (recordFits [("XDIR", 2)] vs) (.encTrxdir ⟨field "XDIR" 2⟩) [] ∧
    assemblesTo .encTex0 [.fields vs] (recordFits tex0Widths vs) (.encTex0 tex0) [] ∧
    assemblesTo .encClamp [.fields vs]
      (recordFits [("WMS", 2), ("WMT", 2), ("MINU", 10), ("MAXU", 10), ("MINV", 10), ("MAXV", 10)] vs)
      (.encClamp ⟨field "WMS" 2, field "WMT" 2, field "MINU" 10, field "MAXU" 10, field "MINV" 10,
        field "MAXV" 10⟩) [] ∧
    assemblesTo .encTex1 [.fields vs]
      (recordFits [("LCM", 1), ("MXL", 3), ("MMAG", 1), ("MMIN", 3), ("MTBA", 1), ("L", 2), ("K", 12)] vs)
      (.encTex1 ⟨field "LCM" 1, field "MXL" 3, field "MMAG" 1, field "MMIN" 3, field "MTBA" 1, field "L" 2,
        field "K" 12⟩) [] ∧
    assemblesTo .encTex2 [.fields vs]
      (recordFits [("PSM", 6), ("CBP", 14), ("CPSM", 4), ("CSM", 1), ("CSA", 5), ("CLD", 3)] vs)
      (.encTex2 ⟨field "PSM" 6, field "CBP" 14, field "CPSM" 4, field "CSM" 1, field "CSA" 5, field "CLD" 3⟩) [] ∧
    assemblesTo .tex2FromTex0 [.fields vs] (recordFits tex0Widths vs) (.tex2FromTex0 tex0) []

/-! ### Address translator -/

/-- R132: ADDR32 returns `word << 2`, from the page, block and column contributions. -/
def Obligations.Addr32ReturnsItsOffset : Prop :=
  ∀ (a : Surface) (s : State) (bp bw x y : Nat), s.fault = none →
    bp = a.bp.toNat → bw = a.bw.toNat → x = a.x.toNat → y = a.y.toNat →
    exec (.addr32 a) s = .next { s with results := s.results ++ [⟨.ok, .offset
      (4 * (2048 * (bp / 32 + y / 32 * bw + x / 64) +
        64 * (bp % 32 + tableAt bt32 (y / 8 % 4) (x / 8 % 8)) + tableAt ct32 (y % 8) (x % 8)))⟩] }

/-- R133: ADDR8 returns its byte offset. -/
def Obligations.Addr8ReturnsItsOffset : Prop :=
  ∀ (a : Surface) (s : State) (bp bw x y : Nat), s.fault = none →
    bp = a.bp.toNat → bw = a.bw.toNat → x = a.x.toNat → y = a.y.toNat →
    exec (.addr8 a) s = .next { s with results := s.results ++ [⟨.ok, .offset
      (8192 * (bp / 32 + y / 64 * (bw / 2) + x / 128) +
        256 * (bp % 32 + tableAt bt8 (y / 16 % 4) (x / 16 % 8)) + tableAt ct8 (y % 16) (x % 16))⟩] }

/-- R134: ADDR4 returns its nibble offset. -/
def Obligations.Addr4ReturnsItsOffset : Prop :=
  ∀ (a : Surface) (s : State) (bp bw x y : Nat), s.fault = none →
    bp = a.bp.toNat → bw = a.bw.toNat → x = a.x.toNat → y = a.y.toNat →
    exec (.addr4 a) s = .next { s with results := s.results ++ [⟨.ok, .offset
      (16384 * (bp / 32 + y / 128 * (bw / 2) + x / 128) +
        512 * (bp % 32 + tableAt bt4 (y / 16 % 8) (x / 32 % 4)) + tableAt ct4 (y % 16) (x % 32))⟩] }

/-- R130: the table entries of every texel are those of the bit formulas. `W(wx, wy)` is
`4 * (wx / 2) + 2 * wy + wx % 2`, and `wx` has its halves swapped where `cy[1] ^ cy[2] = 1`. -/
def Obligations.TablesFollowTheBitFormulas : Prop :=
  ∀ (bp x y wx : Nat), wx = (x % 8 + (if y / 2 % 2 = y / 4 % 2 then 0 else 4)) % 8 →
    blockOf .psmct32 bp x y =
      bp % 32 + (x / 8 % 2 + 2 * (y / 8 % 2) + 4 * (x / 16 % 2) + 8 * (y / 16 % 2) + 16 * (x / 32 % 2)) ∧
    blockOf .psmt8 bp x y =
      bp % 32 + (x / 16 % 2 + 2 * (y / 16 % 2) + 4 * (x / 32 % 2) + 8 * (y / 32 % 2) + 16 * (x / 64 % 2)) ∧
    blockOf .psmt4 bp x y =
      bp % 32 + (y / 16 % 2 + 2 * (x / 32 % 2) + 4 * (y / 32 % 2) + 8 * (x / 64 % 2) + 16 * (y / 64 % 2)) ∧
    columnOf .psmct32 x y = 16 * (y % 8 / 2) + (4 * (x % 8 / 2) + 2 * (y % 2) + x % 2) ∧
    columnOf .psmt8 x y =
      64 * (y % 16 / 4) + 4 * (4 * (wx / 2) + 2 * (y % 2) + wx % 2) + 2 * (x / 8 % 2) + y / 2 % 2 ∧
    columnOf .psmt4 x y =
      128 * (y % 16 / 4) + 8 * (4 * (wx / 2) + 2 * (y % 2) + wx % 2) + 2 * (x / 8 % 4) + y / 2 % 2

/-- R135 (a) and (b): ADDR32 gives a multiple of 4, and within the first page of a page-aligned base it stays in
that page, at or above its first byte (R120) and below its end, which is at most `CAP` for every page-aligned base the
14-bit field can hold. -/
def Obligations.Addr32AlignedAndWithinItsPage : Prop :=
  ∀ bp bw x y : Nat,
    addr32 bp bw x y % 4 = 0 ∧
    (bp % 32 = 0 → x < 64 → y < 32 →
      bp / 32 * 8192 ≤ addr32 bp bw x y ∧ addr32 bp bw x y < bp / 32 * 8192 + 8192 ∧
        (bp ≤ 16352 → bp / 32 * 8192 + 8192 ≤ 4194304))

/-- R135 (c): from a page-aligned base each translator is one to one on the buffer's width. -/
def Obligations.TranslatorsAreInjective : Prop :=
  ∀ bp bw x y x' y' : Nat, bp % 32 = 0 → 1 ≤ bw →
    (x < 64 * bw → x' < 64 * bw → addr32 bp bw x y = addr32 bp bw x' y' → x = x' ∧ y = y') ∧
    (x < 128 * (bw / 2) → x' < 128 * (bw / 2) → addr8 bp bw x y = addr8 bp bw x' y' → x = x' ∧ y = y') ∧
    (x < 128 * (bw / 2) → x' < 128 * (bw / 2) → addr4 bp bw x y = addr4 bp bw x' y' → x = x' ∧ y = y')

/-- R123: the block offset carries: a buffer's blocks are consecutive block numbers from its base on, permuted. -/
def Obligations.BlocksRunOnFromTheBase : Prop :=
  ∀ (f : Format) (bp bw x y : Nat),
    unitOffset f bp bw x y =
      (bp + 32 * (y / 2 ^ (geometry f).pageShiftY * pagesPerRow f bw + x / 2 ^ (geometry f).pageShiftX) +
        blockOf f 0 x y) * 2 ^ (geometry f).blockShift + columnOf f x y

/-- R131: within one page of a page-aligned base each translator reaches every unit of that page. -/
def Obligations.PageTexelsReachEveryUnit : Prop :=
  ∀ (bp bw u : Nat), bp % 32 = 0 →
    (u < 2048 → ∃ x y, x < 64 ∧ y < 32 ∧ addr32 bp bw x y = 4 * (2048 * (bp / 32) + u)) ∧
    (u < 8192 → ∃ x y, x < 128 ∧ y < 64 ∧ addr8 bp bw x y = 8192 * (bp / 32) + u) ∧
    (u < 16384 → ∃ x y, x < 128 ∧ y < 128 ∧ addr4 bp bw x y = 16384 * (bp / 32) + u)

/-! ### CLEAR -/

/-- R213: CLEAR zeroes all of `MEM`, returns OK with nothing, and changes nothing else. -/
def Obligations.ClearZeroesMemory : Prop :=
  ∀ s : State, s.fault = none →
    ∃ m, exec .clear s = .next { s with mem := m, results := s.results ++ [⟨.ok, .nothing⟩] } ∧
      ∀ a, readByte m a = 0

/-- R281: after CLEAR no command can tell the instance from a freshly constructed one. -/
def Obligations.ClearedInstanceIsLikeNew : Prop :=
  ∀ (i : Instr) (s t u : State), exec .clear s = .next t → exec i t = .next u →
    ∃ v, exec i { State.reset with input := t.input } = .next v ∧ v.mem = u.mem ∧ v.fault = u.fault ∧
      v.results.getLast? = u.results.getLast?

/-! ### Uploads -/

/-- R214: UPLOAD32 completes. Texel `(i, j)` of the rectangle leaves its four input bytes at its offset unless a
later texel has the same offset (R205); every byte outside the texels' words is as it was. RESULT is nothing, for an
empty rectangle too (log entry 19). -/
def Obligations.Upload32WritesItsTexels : Prop :=
  ∀ (a : Surface) (r : Extent) (s : State) (w h : Nat), w = r.w.toNat → h = r.h.toNat →
    s.fault = none → coordsFit a r → surfaceFits .psmct32 a r → 4 * (w * h) ≤ s.input.length →
    ∃ m, exec (.upload32 a r) s = .next { s with mem := m, results := s.results ++ [⟨.ok, .nothing⟩] } ∧
      (∀ i j, i < w → j < h →
        (∀ i' j', i' < w → j' < h → j * w + i < j' * w + i' →
          texel32 a (texelAt a i' j') ≠ texel32 a (texelAt a i j)) →
        ∀ b, b < 4 → some (readByte m (texel32 a (texelAt a i j) + b)) = s.input[4 * (j * w + i) + b]?) ∧
      (∀ addr, (∀ i j, i < w → j < h →
          ¬ (texel32 a (texelAt a i j) ≤ addr ∧ addr < texel32 a (texelAt a i j) + 4)) →
        readByte m addr = readByte s.mem addr)

/-- R215: UPLOAD8 completes. Each texel leaves its input byte at its offset unless a later texel has the same
offset; every other byte is as it was. RESULT is nothing, for an empty rectangle too (log entry 19). -/
def Obligations.Upload8WritesItsTexels : Prop :=
  ∀ (a : Surface) (r : Extent) (s : State) (w h : Nat), w = r.w.toNat → h = r.h.toNat →
    s.fault = none → coordsFit a r → surfaceFits .psmt8 a r → w * h ≤ s.input.length →
    ∃ m, exec (.upload8 a r) s = .next { s with mem := m, results := s.results ++ [⟨.ok, .nothing⟩] } ∧
      (∀ i j, i < w → j < h →
        (∀ i' j', i' < w → j' < h → j * w + i < j' * w + i' →
          texel8 a (texelAt a i' j') ≠ texel8 a (texelAt a i j)) →
        some (readByte m (texel8 a (texelAt a i j))) = s.input[j * w + i]?) ∧
      (∀ addr, (∀ i j, i < w → j < h → texel8 a (texelAt a i j) ≠ addr) →
        readByte m addr = readByte s.mem addr)

/-- R216: UPLOAD4 completes. Each texel leaves its input nibble, low nibble first, at its nibble offset unless a
later texel has the same offset; every other nibble, the other lane of a written byte included, and every byte that
holds no texel is as it was. RESULT is nothing, for an empty rectangle too (log entry 19). -/
def Obligations.Upload4WritesItsTexels : Prop :=
  ∀ (a : Surface) (r : Extent) (s : State) (w h : Nat), w = r.w.toNat → h = r.h.toNat →
    s.fault = none → coordsFit a r → surfaceFits .psmt4 a r → (w * h + 1) / 2 ≤ s.input.length →
    ∃ m, exec (.upload4 a r) s = .next { s with mem := m, results := s.results ++ [⟨.ok, .nothing⟩] } ∧
      (∀ i j, i < w → j < h →
        (∀ i' j', i' < w → j' < h → j * w + i < j' * w + i' →
          texel4 a (texelAt a i' j') ≠ texel4 a (texelAt a i j)) →
        ∃ b, s.input[(j * w + i) / 2]? = some b ∧
          (readNibble m (texel4 a (texelAt a i j))).toNat = b.toNat / 16 ^ ((j * w + i) % 2) % 16) ∧
      (∀ q, (∀ i j, i < w → j < h → texel4 a (texelAt a i j) ≠ q) → readNibble m q = readNibble s.mem q) ∧
      (∀ addr, (∀ i j, i < w → j < h → texel4 a (texelAt a i j) / 2 ≠ addr) →
        readByte m addr = readByte s.mem addr)

/-! ### Downloads -/

/-- R217: DOWNLOAD32 completes with `4 * W * H` bytes, the four bytes of each texel in texel order, and changes
nothing else. -/
def Obligations.Download32ReturnsItsTexels : Prop :=
  ∀ (a : Surface) (r : Extent) (s : State) (w h : Nat), w = r.w.toNat → h = r.h.toNat →
    s.fault = none → coordsFit a r → surfaceFits .psmct32 a r →
    ∃ out, exec (.download32 a r) s = .next { s with results := s.results ++ [⟨.ok, .bytes out⟩] } ∧
      out.length = 4 * w * h ∧
      ∀ i j b, i < w → j < h → b < 4 →
        out[4 * (j * w + i) + b]? = some (readByte s.mem (texel32 a (texelAt a i j) + b))

/-- R217, the round-trip law (90_conflicts.md C8): where ADDR32 is one to one on the rectangle, UPLOAD32 and then
DOWNLOAD32 with the same operands return the first `4n` bytes uploaded. That RESULT of UPLOAD32 is nothing for an
empty rectangle too is the model's choice (log entry 19). -/
def Obligations.UploadThenDownloadRoundTrip : Prop :=
  ∀ (a : Surface) (r : Extent) (s : State),
    s.fault = none → coordsFit a r → surfaceFits .psmct32 a r →
    4 * (r.w.toNat * r.h.toNat) ≤ s.input.length →
    (∀ i j i' j', i < r.w.toNat → j < r.h.toNat → i' < r.w.toNat → j' < r.h.toNat →
      texel32 a (texelAt a i j) = texel32 a (texelAt a i' j') → i = i' ∧ j = j') →
    ∃ t u, exec (.upload32 a r) s = .next t ∧ exec (.download32 a r) t = .next u ∧
      u.results = s.results ++
        [⟨.ok, .nothing⟩, ⟨.ok, .bytes (s.input.take (4 * (r.w.toNat * r.h.toNat)))⟩]

/-- R218, R219, R251: DOWNLOAD8 and DOWNLOAD4 answer UNSUPPORTED with the empty stream, whatever their operands,
and change nothing else. -/
def Obligations.DirectIndexDownloadsAreUnsupported : Prop :=
  ∀ (a : Surface) (r : Extent) (s : State), s.fault = none →
    exec (.download8 a r) s = .next { s with results := s.results ++ [⟨.unsupported, .bytes []⟩] } ∧
    exec (.download4 a r) s = .next { s with results := s.results ++ [⟨.unsupported, .bytes []⟩] }

/-- R220, with R210, R212 and R225: DLIDX8 completes with `4 * W * H` bytes: of each texel, R, G and B of the CLUT
cell of the index stored there, and the alpha override, or else the cell's alpha doubled, or 255 where its sign bit
is set. Nothing else changes. -/
def Obligations.Dlidx8ResolvesItsTexels : Prop :=
  ∀ (a : Surface) (r : Extent) (c : ClutRef) (alpha : Option Byte) (s : State) (w h : Nat),
    w = r.w.toNat → h = r.h.toNat →
    s.fault = none → coordsFit a r → surfaceFits .psmt8 a r → clutFits8 s.mem a r c →
    ∃ out, exec (.dlidx8 a r c alpha) s = .next { s with results := s.results ++ [⟨.ok, .bytes out⟩] } ∧
      out.length = 4 * w * h ∧
      ∀ i j k o, i < w → j < h → k = (readByte s.mem (texel8 a (texelAt a i j))).toNat →
        o = addr32 c.cbp.toNat c.cbw.toNat (k % 8 + 8 * (k / 16 % 2)) (2 * (k / 32) + k / 8 % 2) →
        (∀ b, b < 3 → out[4 * (j * w + i) + b]? = some (readByte s.mem (o + b))) ∧
        (∀ v, alpha = some v → out[4 * (j * w + i) + 3]? = some v) ∧
        (alpha = none → ∃ v, out[4 * (j * w + i) + 3]? = some v ∧
          v.toNat = (if 128 ≤ (readByte s.mem (o + 3)).toNat then 255 else 2 * (readByte s.mem (o + 3)).toNat))

/-- R221, with R211, R212 and R225: DLIDX4 completes likewise, the index read from the lane its address names and
its CLUT cell moved by the unmasked CLUT start address. -/
def Obligations.Dlidx4ResolvesItsTexels : Prop :=
  ∀ (a : Surface) (r : Extent) (c : ClutRef) (csa : BitVec 5) (alpha : Option Byte) (s : State) (w h : Nat),
    w = r.w.toNat → h = r.h.toNat →
    s.fault = none → coordsFit a r → surfaceFits .psmt4 a r → clutFits4 s.mem a r c csa →
    ∃ out, exec (.dlidx4 a r c csa alpha) s = .next { s with results := s.results ++ [⟨.ok, .bytes out⟩] } ∧
      out.length = 4 * w * h ∧
      ∀ i j q k o, i < w → j < h → q = texel4 a (texelAt a i j) →
        k = (readByte s.mem (q / 2)).toNat / 16 ^ (q % 2) % 16 →
        o = addr32 c.cbp.toNat c.cbw.toNat (k % 8 + 8 * (csa.toNat % 2)) (k / 8 + 2 * (csa.toNat / 2)) →
        (∀ b, b < 3 → out[4 * (j * w + i) + b]? = some (readByte s.mem (o + b))) ∧
        (∀ v, alpha = some v → out[4 * (j * w + i) + 3]? = some v) ∧
        (alpha = none → ∃ v, out[4 * (j * w + i) + 3]? = some v ∧
          v.toNat = (if 128 ≤ (readByte s.mem (o + 3)).toNat then 255 else 2 * (readByte s.mem (o + 3)).toNat))

/-! ### Format dispatch -/

/-- R222: XFER_UP completes as the upload of the format its PSM names. RESULT is nothing, for an empty rectangle too
(log entry 19). -/
def Obligations.XferUpBehavesAsItsUpload : Prop :=
  ∀ (a : Surface) (r : Extent) (s : State) (n : Nat), n = r.w.toNat * r.h.toNat → s.fault = none → coordsFit a r →
    (surfaceFits .psmct32 a r → 4 * n ≤ s.input.length →
      ∃ t, exec (.xferUp 0x00 a r) s = .next t ∧ exec (.upload32 a r) s = .next t ∧
        t.results = s.results ++ [⟨.ok, .nothing⟩]) ∧
    (surfaceFits .psmt8 a r → n ≤ s.input.length →
      ∃ t, exec (.xferUp 0x13 a r) s = .next t ∧ exec (.upload8 a r) s = .next t ∧
        t.results = s.results ++ [⟨.ok, .nothing⟩]) ∧
    (surfaceFits .psmt4 a r → (n + 1) / 2 ≤ s.input.length →
      ∃ t, exec (.xferUp 0x14 a r) s = .next t ∧ exec (.upload4 a r) s = .next t ∧
        t.results = s.results ++ [⟨.ok, .nothing⟩])

/-- R223: XFER_DOWN completes as DOWNLOAD32 for PSMCT32. -/
def Obligations.XferDownBehavesAsDownload32 : Prop :=
  ∀ (a : Surface) (r : Extent) (s : State), s.fault = none → coordsFit a r → surfaceFits .psmct32 a r →
    ∃ t out, exec (.xferDown 0x00 a r) s = .next t ∧ exec (.download32 a r) s = .next t ∧
      t = { s with results := s.results ++ [⟨.ok, .bytes out⟩] }

/-- R224: XFER_DLIDX completes as DLIDX8 for PSMT8 and as DLIDX4 for PSMT4. -/
def Obligations.XferDlidxBehavesAsItsDownload : Prop :=
  ∀ (a : Surface) (r : Extent) (c : ClutRef) (csa : BitVec 5) (alpha : Option Byte) (s : State),
    s.fault = none → coordsFit a r →
    (surfaceFits .psmt8 a r → clutFits8 s.mem a r c →
      ∃ t out, exec (.xferDlidx 0x13 a r c csa alpha) s = .next t ∧ exec (.dlidx8 a r c alpha) s = .next t ∧
        t = { s with results := s.results ++ [⟨.ok, .bytes out⟩] }) ∧
    (surfaceFits .psmt4 a r → clutFits4 s.mem a r c csa →
      ∃ t out, exec (.xferDlidx 0x14 a r c csa alpha) s = .next t ∧ exec (.dlidx4 a r c csa alpha) s = .next t ∧
        t = { s with results := s.results ++ [⟨.ok, .bytes out⟩] })

/-- R251, R93: a format-dispatched transfer answers UNSUPPORTED for every PSM it has no transfer for, recognised or
not, whatever its other operands, and changes nothing else. -/
def Obligations.UnsupportedFormatsAnswerUnsupported : Prop :=
  ∀ (psm : BitVec 6) (a : Surface) (r : Extent) (c : ClutRef) (csa : BitVec 5) (alpha : Option Byte) (s t : State),
    s.fault = none → t = { s with results := s.results ++ [⟨.unsupported, .bytes []⟩] } →
    (psm.toNat ≠ 0x00 → psm.toNat ≠ 0x13 → psm.toNat ≠ 0x14 → exec (.xferUp psm a r) s = .next t) ∧
    (psm.toNat ≠ 0x00 → exec (.xferDown psm a r) s = .next t) ∧
    (psm.toNat ≠ 0x13 → psm.toNat ≠ 0x14 → exec (.xferDlidx psm a r c csa alpha) s = .next t)

/-- R222 to R224, R252: on every operand a dispatched transfer does what the transfer it dispatches to does, but
that a fault record names the `OP` of the command itself (the model's reading of R252, log entry 10). -/
def Obligations.DispatchedFaultsNameTheirOwnOp : Prop :=
  ∀ (a : Surface) (r : Extent) (c : ClutRef) (csa : BitVec 5) (alpha : Option Byte) (s : State) (i j : Instr)
    (op : BitVec 8), s.fault = none →
    ((i = .xferUp 0x00 a r ∧ j = .upload32 a r ∧ op = 0x50) ∨
      (i = .xferUp 0x13 a r ∧ j = .upload8 a r ∧ op = 0x50) ∨
      (i = .xferUp 0x14 a r ∧ j = .upload4 a r ∧ op = 0x50) ∨
      (i = .xferDown 0x00 a r ∧ j = .download32 a r ∧ op = 0x51) ∨
      (i = .xferDlidx 0x13 a r c csa alpha ∧ j = .dlidx8 a r c alpha ∧ op = 0x52) ∨
      (i = .xferDlidx 0x14 a r c csa alpha ∧ j = .dlidx4 a r c csa alpha ∧ op = 0x52)) →
    ∃ t u, exec i s = .next t ∧ exec j s = .next u ∧
      t = { u with fault := u.fault.map fun k => { k with op := op } }

/-! ### Faults -/

/-- R202, R254, with the record of R252: past the coordinate limit every transfer faults COORD_OVERFLOW, before any
other check of it, and changes nothing else. A fault as a next state is the model's reading (log entry 4), and that an
empty rectangle faults here too (log entry 17). -/
def Obligations.CoordOverflowFaults : Prop :=
  ∀ (a : Surface) (r : Extent) (c : ClutRef) (csa : BitVec 5) (alpha : Option Byte) (s : State) (i : Instr)
    (op : BitVec 8), s.fault = none →
    (2048 < a.x.toNat + r.w.toNat ∨ 2048 < a.y.toNat + r.h.toNat) →
    ((i = .upload32 a r ∧ op = 0x20) ∨ (i = .upload8 a r ∧ op = 0x21) ∨ (i = .upload4 a r ∧ op = 0x22) ∨
      (i = .download32 a r ∧ op = 0x30) ∨ (i = .dlidx8 a r c alpha ∧ op = 0x40) ∨
      (i = .dlidx4 a r c csa alpha ∧ op = 0x41)) →
    exec i s = .next { s with
      fault := some ⟨.coordOverflow, op, a.x.toNat + r.w.toNat, a.y.toNat + r.h.toNat, 0⟩,
      results := s.results ++ [⟨.faulted .coordOverflow, .nothing⟩] }

/-- R207, R255, with the record of R252: a transfer with an access at or beyond `CAP` faults OUT_OF_RANGE, whatever
its input stream, naming the first such texel in texel order and the access's start byte; nothing else changes. A
fault as a next state is the model's reading (log entry 4). -/
def Obligations.OutOfRangeFaults : Prop :=
  ∀ (a : Surface) (r : Extent) (s : State) (i : Instr) (op : BitVec 8) (start : Nat → Nat → Nat) (x y : Nat),
    s.fault = none → coordsFit a r → x < r.w.toNat → y < r.h.toNat →
    ((i = .upload32 a r ∧ op = 0x20 ∧ start = fun x y => texel32 a (texelAt a x y)) ∨
      (i = .upload8 a r ∧ op = 0x21 ∧ start = fun x y => texel8 a (texelAt a x y)) ∨
      (i = .upload4 a r ∧ op = 0x22 ∧ start = fun x y => texel4 a (texelAt a x y) / 2) ∨
      (i = .download32 a r ∧ op = 0x30 ∧ start = fun x y => texel32 a (texelAt a x y))) →
    4194304 ≤ start x y →
    (∀ x' y', x' < r.w.toNat → y' < r.h.toNat → y' * r.w.toNat + x' < y * r.w.toNat + x →
      start x' y' < 4194304) →
    exec i s = .next { s with
      fault := some ⟨.outOfRange, op, a.x.toNat + x, a.y.toNat + y, start x y⟩,
      results := s.results ++ [⟨.faulted .outOfRange, .nothing⟩] }

/-- R204, R252, R258: an indexed download faults OUT_OF_RANGE at the first texel whose index access or CLUT access
lies at or beyond `CAP`, the index access being reported where both do; nothing else changes. A fault as a next state
is the model's reading (log entry 4). -/
def Obligations.IndexedOutOfRangeFaults : Prop :=
  ∀ (a : Surface) (r : Extent) (c : ClutRef) (csa : BitVec 5) (alpha : Option Byte) (s : State) (i : Instr)
    (op : BitVec 8) (index clut : Nat → Nat → Nat) (x y : Nat),
    s.fault = none → coordsFit a r → x < r.w.toNat → y < r.h.toNat →
    ((i = .dlidx8 a r c alpha ∧ op = 0x40 ∧ (index = fun x y => texel8 a (texelAt a x y)) ∧
        clut = fun x y => clutCell c (cellOfTexel8 s.mem a (texelAt a x y))) ∨
      (i = .dlidx4 a r c csa alpha ∧ op = 0x41 ∧ (index = fun x y => texel4 a (texelAt a x y) / 2) ∧
        clut = fun x y => clutCell c (cellOfTexel4 s.mem a csa (texelAt a x y)))) →
    (4194304 ≤ index x y ∨ 4194304 ≤ clut x y) →
    (∀ x' y', x' < r.w.toNat → y' < r.h.toNat → y' * r.w.toNat + x' < y * r.w.toNat + x →
      index x' y' < 4194304 ∧ clut x' y' < 4194304) →
    exec i s = .next { s with
      fault := some ⟨.outOfRange, op, a.x.toNat + x, a.y.toNat + y,
        if 4194304 ≤ index x y then index x y else clut x y⟩,
      results := s.results ++ [⟨.faulted .outOfRange, .nothing⟩] }

/-- R208, R256, with the record of R252: an upload in range whose input stream is shorter than it needs faults
INPUT_UNDERRUN and changes nothing else. A fault as a next state is the model's reading (log entry 4). -/
def Obligations.InputUnderrunFaults : Prop :=
  ∀ (a : Surface) (r : Extent) (s : State) (i : Instr) (op : BitVec 8) (f : Format) (n need : Nat),
    s.fault = none → coordsFit a r → surfaceFits f a r → n = r.w.toNat * r.h.toNat →
    ((i = .upload32 a r ∧ op = 0x20 ∧ f = .psmct32 ∧ need = 4 * n) ∨
      (i = .upload8 a r ∧ op = 0x21 ∧ f = .psmt8 ∧ need = n) ∨
      (i = .upload4 a r ∧ op = 0x22 ∧ f = .psmt4 ∧ need = (n + 1) / 2)) →
    s.input.length < need →
    exec i s = .next { s with
      fault := some ⟨.inputUnderrun, op, s.input.length, need, 0⟩,
      results := s.results ++ [⟨.faulted .inputUnderrun, .nothing⟩] }

/-- R203: with an empty rectangle within the coordinate limit every transfer returns OK, makes no access, needs no input
and returns no byte, wherever its buffers lie; nothing else changes. That the limit is asked for is log entry 17; that
an upload's RESULT is nothing, as R26 has it, and not the empty stream, is log entry 19. -/
def Obligations.EmptyRectangleIsANoOp : Prop :=
  ∀ (a : Surface) (r : Extent) (c : ClutRef) (csa : BitVec 5) (alpha : Option Byte) (s : State) (i : Instr),
    s.fault = none → coordsFit a r → (r.w.toNat = 0 ∨ r.h.toNat = 0) →
    ((i = .upload32 a r ∨ i = .upload8 a r ∨ i = .upload4 a r) →
      exec i s = .next { s with results := s.results ++ [⟨.ok, .nothing⟩] }) ∧
    ((i = .download32 a r ∨ i = .dlidx8 a r c alpha ∨ i = .dlidx4 a r c csa alpha) →
      exec i s = .next { s with results := s.results ++ [⟨.ok, .bytes []⟩] })

/-! ### Register codec -/

/-- R163, R165, R167, R169: the DEC commands of the transfer registers return each field's bits, accept every word
and change nothing else. -/
def Obligations.DecTransferRegistersReturnFields : Prop :=
  ∀ (rw : Word64) (s : State) (v : Nat), s.fault = none → v = rw.toNat →
    (∃ f : Bitbltbuf,
      exec (.decBitbltbuf rw) s = .next { s with results := s.results ++ [⟨.ok, .bitbltbuf f⟩] } ∧
      f.sbp.toNat = v % 2 ^ 14 ∧ f.sbw.toNat = v / 2 ^ 16 % 2 ^ 6 ∧ f.spsm.toNat = v / 2 ^ 24 % 2 ^ 6 ∧
      f.dbp.toNat = v / 2 ^ 32 % 2 ^ 14 ∧ f.dbw.toNat = v / 2 ^ 48 % 2 ^ 6 ∧
      f.dpsm.toNat = v / 2 ^ 56 % 2 ^ 6) ∧
    (∃ f : Trxpos,
      exec (.decTrxpos rw) s = .next { s with results := s.results ++ [⟨.ok, .trxpos f⟩] } ∧
      f.ssax.toNat = v % 2 ^ 11 ∧ f.ssay.toNat = v / 2 ^ 16 % 2 ^ 11 ∧ f.dsax.toNat = v / 2 ^ 32 % 2 ^ 11 ∧
      f.dsay.toNat = v / 2 ^ 48 % 2 ^ 11 ∧ f.dir.toNat = v / 2 ^ 59 % 2 ^ 2) ∧
    (∃ f : Trxreg,
      exec (.decTrxreg rw) s = .next { s with results := s.results ++ [⟨.ok, .trxreg f⟩] } ∧
      f.rrw.toNat = v % 2 ^ 12 ∧ f.rrh.toNat = v / 2 ^ 32 % 2 ^ 12) ∧
    (∃ f : Trxdir,
      exec (.decTrxdir rw) s = .next { s with results := s.results ++ [⟨.ok, .trxdir f⟩] } ∧
      f.xdir.toNat = v % 2 ^ 2)

/-- R171, R173, R175, R177: the DEC commands of the texture registers return each field's bits, accept every word
and change nothing else. -/
def Obligations.DecTextureRegistersReturnFields : Prop :=
  ∀ (rw : Word64) (s : State) (v : Nat), s.fault = none → v = rw.toNat →
    (∃ f : Tex0,
      exec (.decTex0 rw) s = .next { s with results := s.results ++ [⟨.ok, .tex0 f⟩] } ∧
      f.tbp0.toNat = v % 2 ^ 14 ∧ f.tbw.toNat = v / 2 ^ 14 % 2 ^ 6 ∧ f.psm.toNat = v / 2 ^ 20 % 2 ^ 6 ∧
      f.tw.toNat = v / 2 ^ 26 % 2 ^ 4 ∧ f.th.toNat = v / 2 ^ 30 % 2 ^ 4 ∧ f.tcc.toNat = v / 2 ^ 34 % 2 ∧
      f.tfx.toNat = v / 2 ^ 35 % 2 ^ 2 ∧ f.cbp.toNat = v / 2 ^ 37 % 2 ^ 14 ∧ f.cpsm.toNat = v / 2 ^ 51 % 2 ^ 4 ∧
      f.csm.toNat = v / 2 ^ 55 % 2 ∧ f.csa.toNat = v / 2 ^ 56 % 2 ^ 5 ∧ f.cld.toNat = v / 2 ^ 61 % 2 ^ 3) ∧
    (∃ f : Clamp,
      exec (.decClamp rw) s = .next { s with results := s.results ++ [⟨.ok, .clamp f⟩] } ∧
      f.wms.toNat = v % 2 ^ 2 ∧ f.wmt.toNat = v / 2 ^ 2 % 2 ^ 2 ∧ f.minu.toNat = v / 2 ^ 4 % 2 ^ 10 ∧
      f.maxu.toNat = v / 2 ^ 14 % 2 ^ 10 ∧ f.minv.toNat = v / 2 ^ 24 % 2 ^ 10 ∧
      f.maxv.toNat = v / 2 ^ 34 % 2 ^ 10) ∧
    (∃ f : Tex1,
      exec (.decTex1 rw) s = .next { s with results := s.results ++ [⟨.ok, .tex1 f⟩] } ∧
      f.lcm.toNat = v % 2 ∧ f.mxl.toNat = v / 2 ^ 2 % 2 ^ 3 ∧ f.mmag.toNat = v / 2 ^ 5 % 2 ∧
      f.mmin.toNat = v / 2 ^ 6 % 2 ^ 3 ∧ f.mtba.toNat = v / 2 ^ 9 % 2 ∧ f.l.toNat = v / 2 ^ 19 % 2 ^ 2 ∧
      f.k.toNat = v / 2 ^ 32 % 2 ^ 12) ∧
    (∃ f : Tex2,
      exec (.decTex2 rw) s = .next { s with results := s.results ++ [⟨.ok, .tex2 f⟩] } ∧
      f.psm.toNat = v / 2 ^ 20 % 2 ^ 6 ∧ f.cbp.toNat = v / 2 ^ 37 % 2 ^ 14 ∧ f.cpsm.toNat = v / 2 ^ 51 % 2 ^ 4 ∧
      f.csm.toNat = v / 2 ^ 55 % 2 ∧ f.csa.toNat = v / 2 ^ 56 % 2 ^ 5 ∧ f.cld.toNat = v / 2 ^ 61 % 2 ^ 3)

/-- R164, R166, R168, R170: the ENC commands of the transfer registers return the sum of the placed fields, every
other bit zero, and change nothing else. -/
def Obligations.EncTransferRegistersReturnWords : Prop :=
  ∀ (b : Bitbltbuf) (p : Trxpos) (g : Trxreg) (d : Trxdir) (s : State), s.fault = none →
    (∃ w, exec (.encBitbltbuf b) s = .next { s with results := s.results ++ [⟨.ok, .word w⟩] } ∧
      w.toNat = b.sbp.toNat + b.sbw.toNat * 2 ^ 16 + b.spsm.toNat * 2 ^ 24 + b.dbp.toNat * 2 ^ 32 +
        b.dbw.toNat * 2 ^ 48 + b.dpsm.toNat * 2 ^ 56) ∧
    (∃ w, exec (.encTrxpos p) s = .next { s with results := s.results ++ [⟨.ok, .word w⟩] } ∧
      w.toNat = p.ssax.toNat + p.ssay.toNat * 2 ^ 16 + p.dsax.toNat * 2 ^ 32 + p.dsay.toNat * 2 ^ 48 +
        p.dir.toNat * 2 ^ 59) ∧
    (∃ w, exec (.encTrxreg g) s = .next { s with results := s.results ++ [⟨.ok, .word w⟩] } ∧
      w.toNat = g.rrw.toNat + g.rrh.toNat * 2 ^ 32) ∧
    (∃ w, exec (.encTrxdir d) s = .next { s with results := s.results ++ [⟨.ok, .word w⟩] } ∧
      w.toNat = d.xdir.toNat)

/-- R172, R174, R176, R178: the ENC commands of the texture registers return the sum of the placed fields, every
other bit zero, and change nothing else. -/
def Obligations.EncTextureRegistersReturnWords : Prop :=
  ∀ (t : Tex0) (c : Clamp) (l : Tex1) (u : Tex2) (s : State), s.fault = none →
    (∃ w, exec (.encTex0 t) s = .next { s with results := s.results ++ [⟨.ok, .word w⟩] } ∧
      w.toNat = t.tbp0.toNat + t.tbw.toNat * 2 ^ 14 + t.psm.toNat * 2 ^ 20 + t.tw.toNat * 2 ^ 26 +
        t.th.toNat * 2 ^ 30 + t.tcc.toNat * 2 ^ 34 + t.tfx.toNat * 2 ^ 35 + t.cbp.toNat * 2 ^ 37 +
        t.cpsm.toNat * 2 ^ 51 + t.csm.toNat * 2 ^ 55 + t.csa.toNat * 2 ^ 56 + t.cld.toNat * 2 ^ 61) ∧
    (∃ w, exec (.encClamp c) s = .next { s with results := s.results ++ [⟨.ok, .word w⟩] } ∧
      w.toNat = c.wms.toNat + c.wmt.toNat * 2 ^ 2 + c.minu.toNat * 2 ^ 4 + c.maxu.toNat * 2 ^ 14 +
        c.minv.toNat * 2 ^ 24 + c.maxv.toNat * 2 ^ 34) ∧
    (∃ w, exec (.encTex1 l) s = .next { s with results := s.results ++ [⟨.ok, .word w⟩] } ∧
      w.toNat = l.lcm.toNat + l.mxl.toNat * 2 ^ 2 + l.mmag.toNat * 2 ^ 5 + l.mmin.toNat * 2 ^ 6 +
        l.mtba.toNat * 2 ^ 9 + l.l.toNat * 2 ^ 19 + l.k.toNat * 2 ^ 32) ∧
    (∃ w, exec (.encTex2 u) s = .next { s with results := s.results ++ [⟨.ok, .word w⟩] } ∧
      w.toNat = u.psm.toNat * 2 ^ 20 + u.cbp.toNat * 2 ^ 37 + u.cpsm.toNat * 2 ^ 51 + u.csm.toNat * 2 ^ 55 +
        u.csa.toNat * 2 ^ 56 + u.cld.toNat * 2 ^ 61)

/-- R162: decoding an encoded record gives the record, for every register type; and encoding a decoded word gives
the word's field bits, every other bit zero, with the masks the rule lists. -/
def Obligations.RegisterRoundTripLaws : Prop :=
  ((∀ f, decodeBitbltbuf (encodeBitbltbuf f) = f) ∧ (∀ f, decodeTrxpos (encodeTrxpos f) = f) ∧
    (∀ f, decodeTrxreg (encodeTrxreg f) = f) ∧ (∀ f, decodeTrxdir (encodeTrxdir f) = f) ∧
    (∀ f, decodeTex0 (encodeTex0 f) = f) ∧ (∀ f, decodeClamp (encodeClamp f) = f) ∧
    (∀ f, decodeTex1 (encodeTex1 f) = f) ∧ (∀ f, decodeTex2 (encodeTex2 f) = f)) ∧
  ∀ v : Word64,
    encodeBitbltbuf (decodeBitbltbuf v) = v &&& 0x3F3F3FFF3F3F3FFF#64 ∧
    encodeTrxpos (decodeTrxpos v) = v &&& 0x1FFF07FF07FF07FF#64 ∧
    encodeTrxreg (decodeTrxreg v) = v &&& 0x00000FFF00000FFF#64 ∧
    encodeTrxdir (decodeTrxdir v) = v &&& 0x0000000000000003#64 ∧
    encodeTex0 (decodeTex0 v) = v ∧
    encodeClamp (decodeClamp v) = v &&& 0x00000FFFFFFFFFFF#64 ∧
    encodeTex1 (decodeTex1 v) = v &&& 0x00000FFF001803FD#64 ∧
    encodeTex2 (decodeTex2 v) = v &&& 0xFFFFFFE003F00000#64

/-- R179: TEX2_FROM_TEX0 returns the fields TEX2 shares with TEX0 and changes nothing else, and its encoding is the
TEX0 encoding under the mask of bits 63:37 and 25:20. -/
def Obligations.Tex2FromTex0Projects : Prop :=
  ∀ (t : Tex0) (s : State), s.fault = none →
    exec (.tex2FromTex0 t) s =
      .next { s with results := s.results ++ [⟨.ok, .tex2 ⟨t.psm, t.cbp, t.cpsm, t.csm, t.csa, t.cld⟩⟩] } ∧
    encodeTex2 ⟨t.psm, t.cbp, t.cpsm, t.csm, t.csa, t.cld⟩ = encodeTex0 t &&& 0xFFFFFFE003F00000#64

/-- R160, R82: the typed decode of each register gives, field by field, what the generic decode gives over the
register's field list. -/
def Obligations.TypedDecodeIsTheGenericDecode : Prop :=
  ∀ v : Word64,
    (layoutDecode bitbltbufLayout v).map Prod.snd =
      (let f := decodeBitbltbuf v
       [f.sbp.toNat, f.sbw.toNat, f.spsm.toNat, f.dbp.toNat, f.dbw.toNat, f.dpsm.toNat]) ∧
    (layoutDecode trxposLayout v).map Prod.snd =
      (let f := decodeTrxpos v
       [f.ssax.toNat, f.ssay.toNat, f.dsax.toNat, f.dsay.toNat, f.dir.toNat]) ∧
    (layoutDecode trxregLayout v).map Prod.snd =
      (let f := decodeTrxreg v
       [f.rrw.toNat, f.rrh.toNat]) ∧
    (layoutDecode trxdirLayout v).map Prod.snd = [(decodeTrxdir v).xdir.toNat] ∧
    (layoutDecode tex0Layout v).map Prod.snd =
      (let f := decodeTex0 v
       [f.tbp0.toNat, f.tbw.toNat, f.psm.toNat, f.tw.toNat, f.th.toNat, f.tcc.toNat, f.tfx.toNat, f.cbp.toNat,
        f.cpsm.toNat, f.csm.toNat, f.csa.toNat, f.cld.toNat]) ∧
    (layoutDecode clampLayout v).map Prod.snd =
      (let f := decodeClamp v
       [f.wms.toNat, f.wmt.toNat, f.minu.toNat, f.maxu.toNat, f.minv.toNat, f.maxv.toNat]) ∧
    (layoutDecode tex1Layout v).map Prod.snd =
      (let f := decodeTex1 v
       [f.lcm.toNat, f.mxl.toNat, f.mmag.toNat, f.mmin.toNat, f.mtba.toNat, f.l.toNat, f.k.toNat]) ∧
    (layoutDecode tex2Layout v).map Prod.snd =
      (let f := decodeTex2 v
       [f.psm.toNat, f.cbp.toNat, f.cpsm.toNat, f.csm.toNat, f.csa.toNat, f.cld.toNat])

/-- R161, R82: the typed encode of each register is the generic encode, over the register's field list, of its record
written as pairs of field and value. -/
def Obligations.TypedEncodeIsTheGenericEncode : Prop :=
  (∀ f : Bitbltbuf, encodeBitbltbuf f = layoutEncode bitbltbufLayout
    [("SBP", f.sbp.toNat), ("SBW", f.sbw.toNat), ("SPSM", f.spsm.toNat), ("DBP", f.dbp.toNat),
     ("DBW", f.dbw.toNat), ("DPSM", f.dpsm.toNat)]) ∧
  (∀ f : Trxpos, encodeTrxpos f = layoutEncode trxposLayout
    [("SSAX", f.ssax.toNat), ("SSAY", f.ssay.toNat), ("DSAX", f.dsax.toNat), ("DSAY", f.dsay.toNat),
     ("DIR", f.dir.toNat)]) ∧
  (∀ f : Trxreg, encodeTrxreg f = layoutEncode trxregLayout [("RRW", f.rrw.toNat), ("RRH", f.rrh.toNat)]) ∧
  (∀ f : Trxdir, encodeTrxdir f = layoutEncode trxdirLayout [("XDIR", f.xdir.toNat)]) ∧
  (∀ f : Tex0, encodeTex0 f = layoutEncode tex0Layout
    [("TBP0", f.tbp0.toNat), ("TBW", f.tbw.toNat), ("PSM", f.psm.toNat), ("TW", f.tw.toNat), ("TH", f.th.toNat),
     ("TCC", f.tcc.toNat), ("TFX", f.tfx.toNat), ("CBP", f.cbp.toNat), ("CPSM", f.cpsm.toNat),
     ("CSM", f.csm.toNat), ("CSA", f.csa.toNat), ("CLD", f.cld.toNat)]) ∧
  (∀ f : Clamp, encodeClamp f = layoutEncode clampLayout
    [("WMS", f.wms.toNat), ("WMT", f.wmt.toNat), ("MINU", f.minu.toNat), ("MAXU", f.maxu.toNat),
     ("MINV", f.minv.toNat), ("MAXV", f.maxv.toNat)]) ∧
  (∀ f : Tex1, encodeTex1 f = layoutEncode tex1Layout
    [("LCM", f.lcm.toNat), ("MXL", f.mxl.toNat), ("MMAG", f.mmag.toNat), ("MMIN", f.mmin.toNat),
     ("MTBA", f.mtba.toNat), ("L", f.l.toNat), ("K", f.k.toNat)]) ∧
  (∀ f : Tex2, encodeTex2 f = layoutEncode tex2Layout
    [("PSM", f.psm.toNat), ("CBP", f.cbp.toNat), ("CPSM", f.cpsm.toNat), ("CSM", f.csm.toNat),
     ("CSA", f.csa.toNat), ("CLD", f.cld.toNat)])
end

