-- ==== Sys2Proof/Laws/Assembler.lean ====
section
/-! SUPPORT. What each reader of the assembler answers on the operands it is for: the operands meant where they fit,
nothing where they do not (30_encoding.md R80). -/

namespace Sys2Proof.Machine

theorem bitsOperand_eq (w n : Nat) : bitsOperand w n = if n < 2 ^ w then some (BitVec.ofNat w n) else none := rfl

theorem surfaceOperands_eq (bp bw x y : Nat) :
    surfaceOperands bp bw x y = if surfaceOperandsFit bp bw x y then some (surfaceMeant bp bw x y) else none := by
  simp only [surfaceOperands, bitsOperand_eq]
  by_cases h1 : bp < 2 ^ 14 <;> by_cases h2 : bw < 2 ^ 6 <;> by_cases h3 : x < 2 ^ 11 <;> by_cases h4 : y < 2 ^ 11 <;>
    simp only [h1, h2, h3, h4] <;> simp_all [surfaceMeant, surfaceOperandsFit]

theorem moveOperands_eq (bp bw x y w h : Nat) (rest : List Operand) :
    moveOperands (.num bp :: .num bw :: .num x :: .num y :: .num w :: .num h :: rest) =
      if surfaceOperandsFit bp bw x y ∧ extentOperandsFit w h then
        some (surfaceMeant bp bw x y, extentMeant w h, rest)
      else none := by
  simp only [moveOperands, surfaceOperands_eq, bitsOperand_eq, surfaceOperandsFit, extentOperandsFit]
  by_cases h1 : bp < 16384 ∧ bw < 64 ∧ x < 2048 ∧ y < 2048 <;> by_cases h2 : w < 2 ^ 12 <;>
    by_cases h3 : h < 2 ^ 12 <;> simp only [h1, h2, h3] <;> simp_all [extentMeant]

theorem clutOperands_eq (cbp cbw : Nat) (rest : List Operand) :
    clutOperands (.num cbp :: .num cbw :: rest) =
      if clutOperandsFit cbp cbw then some (clutMeant cbp cbw, rest) else none := by
  simp only [clutOperands, bitsOperand_eq]
  by_cases h1 : cbp < 2 ^ 14 <;> by_cases h2 : cbw < 2 ^ 6 <;> simp only [h1, h2] <;>
    simp_all [clutMeant, clutOperandsFit]

theorem inputOperand_eq (bs : List Nat) :
    inputOperand [.bytes bs] = if ∀ b ∈ bs, b < 256 then some (bs.map (BitVec.ofNat 8)) else none := by
  simp only [inputOperand]
  induction bs with
  | nil => rfl
  | cons b bs ih =>
    simp only [List.mapM_cons, bitsOperand_eq, ih]
    by_cases h1 : b < 2 ^ 8 <;> by_cases h2 : ∀ b ∈ bs, b < 256 <;> simp only [h1, h2] <;> simp_all

theorem alphaOperand_of_meant {tail : List Operand} {alpha : Option Byte} (h : alphaMeant tail alpha) :
    alphaOperand tail = some alpha := by
  unfold alphaMeant at h
  split at h
  · simp [alphaOperand, h]
  · simp [alphaOperand, bitsOperand_eq, h]
  · exact h.elim

theorem psmNames_eq_table : psmNames = psmTable.map fun r => (r.name, r.code) := rfl

theorem psmOfName_of_mem : ∀ p ∈ psmNames, psmOfName p.1 = some p.2 := by decide +kernel

theorem psmOperand_of_meant {o : Operand} {psm : BitVec 6} (h : psmMeant o psm) : psmOperand o = some psm := by
  cases o with
  | num n => simp [psmOperand, bitsOperand_eq, h.1, h.2]
  | psm name => exact psmOfName_of_mem _ h
  | bytes _ => exact h.elim
  | alpha _ => exact h.elim
  | fields _ => exact h.elim

theorem psmOperand_of_not_meant {o : Operand} (h : ∀ psm, ¬ psmMeant o psm) : psmOperand o = none := by
  cases o with
  | num n =>
    have hn : ¬ n < 2 ^ 6 := fun hn => h _ ⟨hn, rfl⟩
    rw [psmOperand, bitsOperand_eq, if_neg hn]
  | psm name =>
    simp only [psmOperand, psmOfName, Option.map_eq_none_iff, List.find?_eq_none, beq_iff_eq]
    rintro r hr rfl
    exact h r.code (psmNames_eq_table ▸ List.mem_map.mpr ⟨r, hr, rfl⟩ : (r.name, r.code) ∈ psmNames)
  | bytes _ => rfl
  | alpha _ => rfl
  | fields _ => rfl

/-- The record reader answers on the values that fit the register's field list. -/
theorem recordOperand_eq (fs : Layout) (vs : List (String × Nat)) :
    recordOperand fs [.fields vs] =
      if recordFits (fs.map fun f => (f.name, fieldWidth f)) vs then some (layoutEncode fs vs) else none := by
  have h : (vs.all (fieldFits fs) && decide ((vs.map Prod.fst).Nodup)) =
      decide (recordFits (fs.map fun f => (f.name, fieldWidth f)) vs) := by
    rw [Bool.eq_iff_iff]
    simp [recordFits, fieldFits, List.any_eq_true]
  rw [recordOperand, h]
  simp only [decide_eq_true_eq]

theorem mem_of_lookup {vs : List (String × Nat)} {name : String} {v : Nat} (h : vs.lookup name = some v) :
    (name, v) ∈ vs := by
  induction vs with
  | nil => simp at h
  | cons p vs ih =>
    obtain ⟨a, b⟩ := p
    rw [List.lookup] at h
    split at h
    · next he =>
      simp at h he
      simp [h, he]
    · simp [ih h]

/-- A value that fits its field is not truncated. -/
theorem toNat_fieldMeant {widths vs : List (String × Nat)} (h : recordFits widths vs) {name : String} {w : Nat}
    (hw : ∀ f ∈ widths, f.1 = name → f.2 = w) : (fieldMeant vs name w).toNat = (vs.lookup name).getD 0 := by
  rw [fieldMeant, BitVec.toNat_ofNat]
  apply Nat.mod_eq_of_lt
  cases e : vs.lookup name with
  | none => exact Nat.two_pow_pos w
  | some v =>
    obtain ⟨f, hf, h1, h2⟩ := h.1 _ (mem_of_lookup e)
    rwa [hw f hf h1] at h2

end Sys2Proof.Machine
end

