-- ==== Sys2Proof/Laws/Codec.lean ====
section
/-! SUPPORT. The laws of fields placed in a 64-bit word: what each bit range of an OR of placed fields holds, and the
fields of the descriptor words the encoder writes. -/

namespace Sys2Proof.Machine

@[simp] theorem extract_or (x y : Word64) (s n : Nat) :
    (x ||| y).extractLsb' s n = x.extractLsb' s n ||| y.extractLsb' s n := by
  ext i hi
  simp

/-- A placed field is read back from its own bits. -/
theorem extract_place_same {n : Nat} (v : BitVec n) {lo : Nat} (h : lo + n ≤ 64) :
    (place v lo).extractLsb' lo n = v := by
  ext i hi
  have h1 : lo + i < 64 := by omega
  simp [place, h1, BitVec.getLsbD_eq_getElem hi]

/-- A placed field leaves every disjoint bit range zero. -/
theorem extract_place_disjoint {n : Nat} (v : BitVec n) {lo s m : Nat} (h : lo + n ≤ s ∨ s + m ≤ lo) :
    (place v lo).extractLsb' s m = 0 := by
  ext i hi
  rcases h with h | h
  · have h1 : ¬ (s + i - lo < n) := by omega
    simp [place, BitVec.getLsbD_of_ge _ _ (Nat.le_of_not_lt h1)]
  · have h1 : s + i < lo := by omega
    simp [place, h1]

/-- The number a placed field stands for. -/
theorem toNat_place {n : Nat} (v : BitVec n) {lo : Nat} (h : lo + n ≤ 64) :
    (place v lo).toNat = v.toNat * 2 ^ lo := by
  have hv := v.isLt
  have hb : v.toNat * 2 ^ lo < 2 ^ 64 := by
    calc v.toNat * 2 ^ lo < 2 ^ n * 2 ^ lo := Nat.mul_lt_mul_of_pos_right hv (Nat.two_pow_pos lo)
      _ = 2 ^ (n + lo) := (Nat.pow_add 2 n lo).symm
      _ ≤ 2 ^ 64 := Nat.pow_le_pow_right (by omega) (by omega)
  have hw : v.toNat < 2 ^ 64 :=
    Nat.lt_of_lt_of_le hv (Nat.pow_le_pow_right (by omega) (by omega))
  simp only [place, BitVec.toNat_shiftLeft, BitVec.toNat_setWidth, Nat.shiftLeft_eq]
  rw [Nat.mod_eq_of_lt hw, Nat.mod_eq_of_lt hb]

/-- The number a bit range of a word holds. -/
theorem toNat_extract (w : Word64) (s n : Nat) : (w.extractLsb' s n).toNat = w.toNat / 2 ^ s % 2 ^ n := by
  simp [Nat.shiftRight_eq_div_pow]

/-- A field placed above every bit of a word adds its number. -/
theorem toNat_or_place (x : Word64) {n : Nat} (v : BitVec n) {lo : Nat} (hx : x.toNat < 2 ^ lo) (h : lo + n ≤ 64) :
    (x ||| place v lo).toNat = x.toNat + v.toNat * 2 ^ lo := by
  rw [BitVec.toNat_or, toNat_place v h, Nat.or_comm, ← Nat.shiftLeft_eq, ← Nat.shiftLeft_add_eq_or_of_lt hx,
    Nat.add_comm]

/-- The generic encode depends on the values of the type's fields alone. -/
theorem layoutEncode_congr (fs : Layout) {r r' : List (String × Nat)}
    (h : ∀ f ∈ fs, (r.lookup f.name).getD 0 = (r'.lookup f.name).getD 0) : layoutEncode fs r = layoutEncode fs r' := by
  unfold layoutEncode
  rw [List.map_congr_left fun f hf => by rw [h f hf]]

end Sys2Proof.Machine

namespace Sys2Proof

open Machine

/-- A word is read back from the bytes that carry it (R46). -/
theorem wordOfBytes_bytesOfWord (w : Word64) :
    wordOfBytes (w.extractLsb' 0 8) (w.extractLsb' 8 8) (w.extractLsb' 16 8) (w.extractLsb' 24 8)
      (w.extractLsb' 32 8) (w.extractLsb' 40 8) (w.extractLsb' 48 8) (w.extractLsb' 56 8) = w := by
  simp only [wordOfBytes]
  repeat rw [BitVec.extractLsb'_append_extractLsb'_eq_extractLsb' (by rfl)]
  exact BitVec.extractLsb'_eq_self

theorem opField_commandWord (op : Op) (psm : BitVec 6) (csa : BitVec 5) (alpha : Option Byte) :
    opField (commandWord op psm csa alpha) = opCode op := by
  simp (disch := decide) [opField, commandWord, extract_place_same, extract_place_disjoint]

theorem opField_plainWord (op : Op) : opField (plainWord op) = opCode op :=
  opField_commandWord op 0 0 none

theorem opOfCode_opCode (op : Op) : opOfCode (opCode op) = some op := by
  cases op <;> rfl

end Sys2Proof
end

