-- ==== Sys2Proof/Laws/Memory.lean ====
section
/-! SUPPORT. The laws of `MEM`: a read after a write, for bytes, runs of bytes and nibbles, on every memory; and
that every memory operation keeps the canonical form. -/

namespace Sys2Proof.Machine

/-! ### Read after write, one byte -/

theorem lookup_insertCell_self (m : Memory) (a : Nat) (v : Byte) : (insertCell a v m).lookup a = some v := by
  induction m with
  | nil => simp [insertCell]
  | cons c m ih =>
    obtain ⟨b, w⟩ := c
    simp only [insertCell]
    split
    · have hne : a ≠ b := by omega
      simp [List.lookup, beq_eq_false_iff_ne.mpr hne, ih]
    · split <;> simp [List.lookup]

theorem lookup_insertCell_ne (m : Memory) {a b : Nat} (v : Byte) (h : b ≠ a) :
    (insertCell a v m).lookup b = m.lookup b := by
  induction m with
  | nil => simp [insertCell, List.lookup, beq_eq_false_iff_ne.mpr h]
  | cons c m ih =>
    obtain ⟨d, w⟩ := c
    simp only [insertCell]
    split
    · simp only [List.lookup]
      split <;> simp_all
    · split
      · next hd =>
        subst hd
        simp [List.lookup, beq_eq_false_iff_ne.mpr h]
      · rw [List.lookup, beq_eq_false_iff_ne.mpr h]

theorem lookup_filter_self (m : Memory) (a : Nat) : (m.filter fun c => c.1 != a).lookup a = none := by
  induction m with
  | nil => rfl
  | cons c m ih =>
    obtain ⟨d, w⟩ := c
    by_cases hd : d = a
    · simpa [List.filter, hd] using ih
    · have hd' : a ≠ d := fun e => hd e.symm
      simpa [List.filter, bne_iff_ne.mpr hd, List.lookup, beq_eq_false_iff_ne.mpr hd'] using ih

theorem lookup_filter_ne (m : Memory) {a b : Nat} (h : b ≠ a) :
    (m.filter fun c => c.1 != a).lookup b = m.lookup b := by
  induction m with
  | nil => rfl
  | cons c m ih =>
    obtain ⟨d, w⟩ := c
    by_cases hd : d = a
    · subst hd
      simpa [List.filter, List.lookup, beq_eq_false_iff_ne.mpr h] using ih
    · simp only [List.filter, bne_iff_ne.mpr hd, List.lookup]
      split <;> simp_all

/-- The byte written is the byte read. -/
@[simp] theorem readByte_writeByte_self (m : Memory) (a : Nat) (v : Byte) :
    readByte (writeByte m a v) a = v := by
  unfold readByte writeByte
  split
  · next h => simp [lookup_filter_self, h]
  · simp [lookup_insertCell_self]

/-- A write leaves every other byte alone. -/
theorem readByte_writeByte_ne (m : Memory) {a b : Nat} (v : Byte) (h : b ≠ a) :
    readByte (writeByte m a v) b = readByte m b := by
  unfold readByte writeByte
  split
  · rw [lookup_filter_ne m h]
  · rw [lookup_insertCell_ne m v h]

theorem readByte_writeByte (m : Memory) (a b : Nat) (v : Byte) :
    readByte (writeByte m a v) b = if b = a then v else readByte m b := by
  split
  · next h => rw [h, readByte_writeByte_self]
  · next h => exact readByte_writeByte_ne m v h

@[simp] theorem readByte_nil (a : Nat) : readByte [] a = 0 := rfl

/-! ### Runs of bytes -/

/-- What a run of bytes leaves at every address. -/
theorem readByte_writeBytes (m : Memory) (a : Nat) (bs : List Byte) (b : Nat) :
    readByte (writeBytes m a bs) b = if a ≤ b ∧ b < a + bs.length then bs.getD (b - a) 0 else readByte m b := by
  induction bs generalizing m a with
  | nil => simp [writeBytes]
  | cons v vs ih =>
    simp only [writeBytes, ih, readByte_writeByte, List.length_cons]
    by_cases hb : b = a
    · subst hb; simp
    · by_cases hin : a + 1 ≤ b ∧ b < a + 1 + vs.length
      · have h2 : a ≤ b ∧ b < a + (vs.length + 1) := by omega
        obtain ⟨k, hk⟩ : ∃ k, b - a = k + 1 := ⟨b - a - 1, by omega⟩
        have hk' : b - (a + 1) = k := by omega
        rw [if_pos hin, if_pos h2, hk, hk', List.getD_cons_succ]
      · have h2 : ¬ (a ≤ b ∧ b < a + (vs.length + 1)) := by omega
        rw [if_neg hin, if_neg h2, if_neg hb]

@[simp] theorem length_readBytes (m : Memory) (a n : Nat) : (readBytes m a n).length = n := by
  simp [readBytes]

/-! ### Nibbles -/

theorem laneLow_of_merge (b : Byte) (v : Nibble) :
    (b &&& 240#8 ||| v.setWidth 8).extractLsb' 0 4 = v := by
  revert b v; decide +kernel

theorem laneHigh_of_lowMerge (b : Byte) (v : Nibble) :
    (b &&& 240#8 ||| v.setWidth 8).extractLsb' 4 4 = b.extractLsb' 4 4 := by
  revert b v; decide +kernel

theorem laneHigh_of_merge (b : Byte) (v : Nibble) :
    (b &&& 15#8 ||| v.setWidth 8 <<< 4).extractLsb' 4 4 = v := by
  revert b v; decide +kernel

theorem laneLow_of_highMerge (b : Byte) (v : Nibble) :
    (b &&& 15#8 ||| v.setWidth 8 <<< 4).extractLsb' 0 4 = b.extractLsb' 0 4 := by
  revert b v; decide +kernel

/-- A byte is its two lanes. -/
theorem byte_eq_lanes (b c : Byte) (hlo : b.extractLsb' 0 4 = c.extractLsb' 0 4)
    (hhi : b.extractLsb' 4 4 = c.extractLsb' 4 4) : b = c := by
  have split_lanes : ∀ d : Byte, d = (d.extractLsb' 4 4 ++ d.extractLsb' 0 4 : BitVec 8) := by decide +kernel
  rw [split_lanes b, split_lanes c, hlo, hhi]

/-- What a nibble write leaves at every nibble address: the nibble written, and every other as it was. -/
theorem readNibble_writeNibble (m : Memory) (q p : Nat) (v : Nibble) :
    readNibble (writeNibble m q v) p = if p = q then v else readNibble m p := by
  have hand : ∀ n : Nat, n &&& 1 = n % 2 := fun n => Nat.and_one_is_mod n
  have hsh : ∀ n : Nat, n >>> 1 = n / 2 := fun n => Nat.shiftRight_eq_div_pow n 1
  unfold readNibble writeNibble
  simp only [hand, hsh]
  by_cases hpq : p = q
  · subst hpq
    by_cases h0 : p % 2 = 0 <;> simp [h0, laneLow_of_merge, laneHigh_of_merge]
  · by_cases hb : p / 2 = q / 2
    · by_cases h0 : q % 2 = 0
      · have h1 : ¬ p % 2 = 0 := by omega
        simp [h0, h1, hb, hpq, laneHigh_of_lowMerge]
      · have h1 : p % 2 = 0 := by omega
        simp [h0, h1, hb, hpq, laneLow_of_highMerge]
    · by_cases h0 : q % 2 = 0 <;> simp [h0, hpq, readByte_writeByte_ne _ _ hb]

/-- A nibble write leaves every byte but its own as it was. -/
theorem readByte_writeNibble_ne (m : Memory) {q b : Nat} (v : Nibble) (h : b ≠ q / 2) :
    readByte (writeNibble m q v) b = readByte m b := by
  have hsh : q >>> 1 = q / 2 := Nat.shiftRight_eq_div_pow q 1
  unfold writeNibble
  rw [hsh]
  split <;> exact readByte_writeByte_ne _ _ h

/-! ### The canonical form -/

/-- The canonical form, as propositions. -/
theorem Memory.wf_iff (m : Memory) :
    m.wf = true ↔ m.Pairwise (fun c d => c.1 < d.1) ∧ ∀ c ∈ m, c.2 ≠ 0 ∧ c.1 < Config.cap := by
  simp [Memory.wf]

theorem mem_insertCell {m : Memory} {a : Nat} {v : Byte} {c : Host.Cell} (h : c ∈ insertCell a v m) :
    c = (a, v) ∨ c ∈ m := by
  induction m with
  | nil => simpa [insertCell] using h
  | cons d m ih =>
    simp only [insertCell] at h
    split at h
    · rcases List.mem_cons.mp h with rfl | h
      · simp
      · rcases ih h with h | h <;> simp [h]
    · split at h
      · rcases List.mem_cons.mp h with h | h <;> simp [h]
      · rcases List.mem_cons.mp h with h | h
        · simp [h]
        · exact Or.inr h

theorem pairwise_insertCell {m : Memory} (a : Nat) (v : Byte) (h : m.Pairwise fun c d => c.1 < d.1) :
    (insertCell a v m).Pairwise fun c d => c.1 < d.1 := by
  induction m with
  | nil => simp [insertCell]
  | cons d m ih =>
    have hd := List.pairwise_cons.mp h
    simp only [insertCell]
    split
    · next hlt =>
      refine List.pairwise_cons.mpr ⟨fun c hc => ?_, ih hd.2⟩
      rcases mem_insertCell hc with rfl | hc
      · exact hlt
      · exact hd.1 c hc
    · split
      · next he =>
        refine List.pairwise_cons.mpr ⟨fun c hc => ?_, hd.2⟩
        have := hd.1 c hc
        simpa [← he] using this
      · refine List.pairwise_cons.mpr ⟨fun c hc => ?_, h⟩
        rcases List.mem_cons.mp hc with rfl | hc
        · simp only []; omega
        · have := hd.1 c hc
          simp only []; omega

/-- A write below `CAP` keeps the canonical form. -/
theorem writeByte_wf {m : Memory} {a : Nat} (v : Byte) (h : m.wf = true) (ha : a < Config.cap) :
    (writeByte m a v).wf = true := by
  rw [Memory.wf_iff] at h ⊢
  unfold writeByte
  split
  · exact ⟨h.1.filter _, fun c hc => h.2 c (List.mem_filter.mp hc).1⟩
  · next hv =>
    refine ⟨pairwise_insertCell a v h.1, fun c hc => ?_⟩
    rcases mem_insertCell hc with rfl | hc
    · exact ⟨hv, ha⟩
    · exact h.2 c hc

/-- A run of bytes below `CAP` keeps the canonical form. -/
theorem writeBytes_wf {m : Memory} {a : Nat} {bs : List Byte} (h : m.wf = true)
    (ha : a + bs.length ≤ Config.cap) : (writeBytes m a bs).wf = true := by
  induction bs generalizing m a with
  | nil => exact h
  | cons b bs ih =>
    rw [List.length_cons] at ha
    exact ih (writeByte_wf b h (by omega)) (by omega)

/-- A nibble write below `CAP` keeps the canonical form. -/
theorem writeNibble_wf {m : Memory} {q : Nat} (v : Nibble) (h : m.wf = true) (hq : q / 2 < Config.cap) :
    (writeNibble m q v).wf = true := by
  have hsh : q >>> 1 = q / 2 := Nat.shiftRight_eq_div_pow q 1
  unfold writeNibble
  rw [hsh]
  split <;> exact writeByte_wf _ h hq

/-- Construction's memory is canonical. -/
theorem reset_mem_wf : State.reset.mem.wf = true := rfl

theorem readByte_cons (c : Host.Cell) (m : Memory) (a : Nat) :
    readByte (c :: m) a = if a = c.1 then c.2 else readByte m a := by
  obtain ⟨d, w⟩ := c
  unfold readByte
  rw [List.lookup]
  by_cases h : a = d
  · simp [h]
  · simp [beq_eq_false_iff_ne.mpr h, h]

theorem readByte_of_lt_all {m : Memory} {a : Nat} (h : ∀ c ∈ m, a < c.1) : readByte m a = 0 := by
  induction m with
  | nil => rfl
  | cons c m ih =>
    rw [readByte_cons, if_neg (by have := h c (by simp); omega)]
    exact ih fun d hd => h d (by simp [hd])

/-- Canonical memories that read alike everywhere are equal data. -/
theorem eq_of_readByte_eq {m n : Memory} (hm : m.wf = true) (hn : n.wf = true)
    (h : ∀ a, readByte m a = readByte n a) : m = n := by
  rw [Memory.wf_iff] at hm hn
  induction m generalizing n with
  | nil =>
    cases n with
    | nil => rfl
    | cons c n =>
      have := h c.1
      rw [readByte_cons, if_pos rfl] at this
      exact absurd this.symm (hn.2 c (by simp)).1
  | cons c m ih =>
    cases n with
    | nil =>
      have := h c.1
      rw [readByte_cons, if_pos rfl] at this
      exact absurd this (hm.2 c (by simp)).1
    | cons d n =>
      have hmc := List.pairwise_cons.mp hm.1
      have hnd := List.pairwise_cons.mp hn.1
      have key : c.1 = d.1 := by
        rcases Nat.lt_trichotomy c.1 d.1 with hlt | heq | hgt
        · have e := h c.1
          rw [readByte_cons, if_pos rfl, readByte_of_lt_all] at e
          · exact absurd e (hm.2 c (by simp)).1
          · intro x hx
            rcases List.mem_cons.mp hx with rfl | hx
            · exact hlt
            · have := hnd.1 x hx; omega
        · exact heq
        · have e := h d.1
          rw [readByte_cons d, if_pos rfl, readByte_of_lt_all] at e
          · exact absurd e.symm (hn.2 d (by simp)).1
          · intro x hx
            rcases List.mem_cons.mp hx with rfl | hx
            · exact hgt
            · have := hmc.1 x hx; omega
      have hv : c.2 = d.2 := by
        have e := h c.1
        rwa [readByte_cons, readByte_cons, if_pos rfl, if_pos key] at e
      have hcd : c = d := Prod.ext key hv
      subst hcd
      refine congrArg _ (ih ⟨hmc.2, fun x hx => hm.2 x (by simp [hx])⟩
        ⟨hnd.2, fun x hx => hn.2 x (by simp [hx])⟩ fun a => ?_)
      by_cases ha : a = c.1
      · rw [ha, readByte_of_lt_all hmc.1, readByte_of_lt_all hnd.1]
      · have e := h a
        rwa [readByte_cons, readByte_cons, if_neg ha, if_neg ha] at e

end Sys2Proof.Machine
end

