-- ==== Sys2Proof/Laws/State.lean ====
section
/-! SUPPORT. What each update of the state leaves in each field: one lemma per field per update. -/

namespace Sys2Proof.Machine

@[simp] theorem respond_mem (s : State) (r : Response) : (respond s r).mem = s.mem := rfl

@[simp] theorem respond_fault (s : State) (r : Response) : (respond s r).fault = s.fault := rfl

@[simp] theorem respond_commands (s : State) (r : Response) : (respond s r).commands = s.commands := rfl

@[simp] theorem respond_input (s : State) (r : Response) : (respond s r).input = s.input := rfl

@[simp] theorem respond_results (s : State) (r : Response) : (respond s r).results = s.results ++ [r] := rfl

@[simp] theorem finish_mem (s : State) (r : Result) : (finish s r).mem = s.mem := rfl

@[simp] theorem finish_fault (s : State) (r : Result) : (finish s r).fault = s.fault := rfl

@[simp] theorem finish_commands (s : State) (r : Result) : (finish s r).commands = s.commands := rfl

@[simp] theorem finish_input (s : State) (r : Result) : (finish s r).input = s.input := rfl

@[simp] theorem finish_results (s : State) (r : Result) : (finish s r).results = s.results ++ [⟨.ok, r⟩] := rfl

@[simp] theorem answerUnsupported_mem (s : State) : (answerUnsupported s).mem = s.mem := rfl

@[simp] theorem answerUnsupported_fault (s : State) : (answerUnsupported s).fault = s.fault := rfl

@[simp] theorem answerUnsupported_commands (s : State) : (answerUnsupported s).commands = s.commands := rfl

@[simp] theorem answerUnsupported_input (s : State) : (answerUnsupported s).input = s.input := rfl

@[simp] theorem answerUnsupported_results (s : State) : (answerUnsupported s).results = s.results ++ [⟨.unsupported, .bytes []⟩] := rfl

@[simp] theorem takeFault_mem (s : State) (k : FaultRecord) : (takeFault s k).mem = s.mem := rfl

@[simp] theorem takeFault_fault (s : State) (k : FaultRecord) : (takeFault s k).fault = some k := rfl

@[simp] theorem takeFault_commands (s : State) (k : FaultRecord) : (takeFault s k).commands = s.commands := rfl

@[simp] theorem takeFault_input (s : State) (k : FaultRecord) : (takeFault s k).input = s.input := rfl

@[simp] theorem takeFault_results (s : State) (k : FaultRecord) : (takeFault s k).results = s.results ++ [⟨.faulted k.code, .nothing⟩] := rfl

@[simp] theorem issueFirst_mem (s : State) (c : Command) : (issueFirst s c).mem = s.mem := rfl

@[simp] theorem issueFirst_fault (s : State) (c : Command) : (issueFirst s c).fault = s.fault := rfl

@[simp] theorem issueFirst_commands (s : State) (c : Command) : (issueFirst s c).commands = c :: s.commands := rfl

@[simp] theorem issueFirst_input (s : State) (c : Command) : (issueFirst s c).input = s.input := rfl

@[simp] theorem issueFirst_results (s : State) (c : Command) : (issueFirst s c).results = s.results := rfl

@[simp] theorem reset_mem : State.reset.mem = [] := rfl

@[simp] theorem reset_fault : State.reset.fault = none := rfl

@[simp] theorem reset_commands : State.reset.commands = [] := rfl

@[simp] theorem reset_input : State.reset.input = [] := rfl

@[simp] theorem reset_results : State.reset.results = [] := rfl

end Sys2Proof.Machine
end

