-- ==== Sys2Proof/Laws/Translator.lean ====
section
/-! SUPPORT. The translators in quotients and remainders, the bounds of the permutation tables, and the two forms of
each table (40_translator.md R124 to R130). -/

namespace Sys2Proof.Machine

theorem and_mask (x k : Nat) : x &&& (2 ^ k - 1) = x % 2 ^ k := Nat.and_two_pow_sub_one_eq_mod x k

/-! ### Quotients and remainders -/

theorem addr32_eq (bp bw x y : Nat) :
    addr32 bp bw x y =
      8192 * (bp / 32 + y / 32 * bw + x / 64) + 256 * (bp % 32 + tableAt bt32 (y / 8 % 4) (x / 8 % 8))
        + 4 * tableAt ct32 (y % 8) (x % 8) := by
  have h5 := and_mask bp 5
  have h3 := fun n => and_mask n 3
  have h2 := fun n => and_mask n 2
  simp only [Nat.reducePow, Nat.reduceSub] at h5 h3 h2
  simp only [addr32, unitOffset, pageOf, blockOf, columnOf, geometry, pagesPerRow, h5, h3, h2,
    Nat.shiftLeft_eq, Nat.shiftRight_eq_div_pow, Nat.reducePow]
  ring

theorem addr8_eq (bp bw x y : Nat) :
    addr8 bp bw x y =
      8192 * (bp / 32 + y / 64 * (bw / 2) + x / 128) + 256 * (bp % 32 + tableAt bt8 (y / 16 % 4) (x / 16 % 8))
        + tableAt ct8 (y % 16) (x % 16) := by
  have h5 := and_mask bp 5
  have h4 := fun n => and_mask n 4
  have h3 := fun n => and_mask n 3
  have h2 := fun n => and_mask n 2
  simp only [Nat.reducePow, Nat.reduceSub] at h5 h4 h3 h2
  simp only [addr8, unitOffset, pageOf, blockOf, columnOf, geometry, pagesPerRow, h5, h4, h3, h2,
    Nat.shiftLeft_eq, Nat.shiftRight_eq_div_pow, Nat.reducePow]
  ring

theorem addr4_eq (bp bw x y : Nat) :
    addr4 bp bw x y =
      16384 * (bp / 32 + y / 128 * (bw / 2) + x / 128) + 512 * (bp % 32 + tableAt bt4 (y / 16 % 8) (x / 32 % 4))
        + tableAt ct4 (y % 16) (x % 32) := by
  have h5 := fun n => and_mask n 5
  have h4 := fun n => and_mask n 4
  have h3 := fun n => and_mask n 3
  have h2 := fun n => and_mask n 2
  simp only [Nat.reducePow, Nat.reduceSub] at h5 h4 h3 h2
  simp only [addr4, unitOffset, pageOf, blockOf, columnOf, geometry, pagesPerRow, h5, h4, h3, h2,
    Nat.shiftLeft_eq, Nat.shiftRight_eq_div_pow, Nat.reducePow]
  ring

/-! ### Bounds of the tables (R131) -/

theorem bt32_lt : ∀ r < 4, ∀ c < 8, tableAt bt32 r c < 32 := by decide +kernel

theorem bt4_lt : ∀ r < 8, ∀ c < 4, tableAt bt4 r c < 32 := by decide +kernel

theorem ct32_lt : ∀ r < 8, ∀ c < 8, tableAt ct32 r c < 64 := by decide +kernel

theorem ct8_lt : ∀ r < 16, ∀ c < 16, tableAt ct8 r c < 256 := by decide +kernel

theorem ct4_lt : ∀ r < 16, ∀ c < 32, tableAt ct4 r c < 512 := by decide +kernel

/-! ### The reduced tables the source counts (90_conflicts.md C2, C5) -/

/-- CT32 is four copies of its first two rows, offset by 16 times the column number (R125). -/
theorem ct32_columns : ∀ r < 8, ∀ c < 8, tableAt ct32 r c = 16 * (r / 2) + tableAt ct32 (r % 2) c := by
  decide +kernel

/-- BT4 is its first four rows, plus 16 for the lower half of the page (R128). -/
theorem bt4_halves : ∀ r < 8, ∀ c < 4, tableAt bt4 r c = tableAt bt4 (r % 4) c + 16 * (r / 4) := by
  decide +kernel

end Sys2Proof.Machine
end

