-- ==== Sys2Proof/Laws/Ops.lean ====
section
/-! SUPPORT. What each shared operation can do, said once: accepting a command, the texels of a rectangle, the
checks, and the writes of an upload. -/

namespace Sys2Proof.Machine

/-! ### Accepting a command -/

/-- A command is accepted exactly on an instance that has not faulted. -/
theorem whenReady_eq_next {s t u : State} : whenReady s t = .next u ↔ s.fault = none ∧ t = u := by
  unfold whenReady
  cases h : s.fault <;> simp

theorem whenReady_ready {s : State} (t : State) (h : s.fault = none) : whenReady s t = .next t :=
  whenReady_eq_next.mpr ⟨h, rfl⟩

theorem whenReady_faulted {s : State} (t : State) {k : FaultRecord} (h : s.fault = some k) :
    whenReady s t = .fault .quiescent := by
  simp [whenReady, h]

/-- A checked command goes to the state its own effect gives, or takes the fault its checks found. -/
theorem checked_eq_next {s t u : State} {k : Option FaultRecord} :
    checked s k t = .next u ↔
      s.fault = none ∧ ((k = none ∧ t = u) ∨ ∃ r, k = some r ∧ takeFault s r = u) := by
  cases k <;> simp [checked, whenReady_eq_next]

theorem checked_faulted {s : State} (k : Option FaultRecord) (t : State) {r : FaultRecord}
    (h : s.fault = some r) : checked s k t = .fault .quiescent := by
  cases k <;> simp [checked, whenReady_faulted _ h]

/-! ### The texels of a rectangle (R200) -/

@[simp] theorem length_rect (x y w h : Nat) : (rect x y w h).length = w * h := by
  simp [rect, List.length_flatMap, Nat.mul_comm]

theorem mem_rect {x y w h : Nat} {p : Texel} :
    p ∈ rect x y w h ↔ ∃ i j, i < w ∧ j < h ∧ p = (x + i, y + j) := by
  simp only [rect, List.mem_flatMap, List.mem_range, List.mem_map]
  constructor
  · rintro ⟨j, hj, i, hi, rfl⟩
    exact ⟨i, j, hi, hj, rfl⟩
  · rintro ⟨i, j, hi, hj, rfl⟩
    exact ⟨j, hj, i, hi, rfl⟩

theorem mem_texelsOf {a : Surface} {r : Extent} {p : Texel} :
    p ∈ texelsOf a r ↔ ∃ i j, i < r.w.toNat ∧ j < r.h.toNat ∧ p = texelAt a i j := mem_rect

@[simp] theorem length_texelsOf (a : Surface) (r : Extent) : (texelsOf a r).length = texelCount r := by
  simp [texelsOf, texelCount]

theorem getElem?_flatMap_range {α : Type} (g : Nat → List α) (w : Nat) (hg : ∀ j, (g j).length = w) :
    ∀ h t, t < w * h → ((List.range h).flatMap g)[t]? = (g (t / w))[t % w]? := by
  intro h
  induction h with
  | zero => intro t ht; omega
  | succ h ih =>
    intro t ht
    have hw : 0 < w := by
      rcases Nat.eq_zero_or_pos w with rfl | hw
      · simp at ht
      · exact hw
    have hlen : ((List.range h).flatMap g).length = w * h := by
      simp [List.length_flatMap, hg, Nat.mul_comm]
    rw [List.range_succ, List.flatMap_append, List.getElem?_append, hlen]
    split
    · next hlt => exact ih t hlt
    · next hge =>
      rw [Nat.mul_succ] at ht
      have hq : t / w = h := by
        have e1 : h * w ≤ t := by rw [Nat.mul_comm]; omega
        have e2 : t < (h + 1) * w := by rw [Nat.add_mul, Nat.mul_comm]; omega
        exact Nat.div_eq_of_lt_le e1 e2
      have hr : t % w = t - w * h := by
        have := Nat.div_add_mod t w
        rw [hq] at this; omega
      simp [hq, hr]

/-- Texel number `t` is in column `t % W` and row `t / W` of the rectangle (R200). -/
theorem getElem?_texelsOf (a : Surface) (r : Extent) {t : Nat} (h : t < texelCount r) :
    (texelsOf a r)[t]? = some (texelAt a (t % r.w.toNat) (t / r.w.toNat)) := by
  have hw : 0 < r.w.toNat := by
    rcases Nat.eq_zero_or_pos r.w.toNat with h0 | h0
    · simp [texelCount, h0] at h
    · exact h0
  unfold texelsOf rect
  rw [getElem?_flatMap_range _ r.w.toNat (by simp) r.h.toNat t h]
  simp [List.getElem?_range (Nat.mod_lt t hw), texelAt]

/-! ### The checks (R258) -/

theorem coordFault_eq_none {op : BitVec 8} {a : Surface} {r : Extent} :
    coordFault op a r = none ↔ coordsFit a r := by
  simp [coordFault, coordsFit, Config.coordLimit]

theorem rangeFault_eq_none {op : BitVec 8} {accesses : Texel → List Access} {ps : List Texel} :
    rangeFault op accesses ps = none ↔ ∀ p ∈ ps, ∀ k ∈ accesses p, k.last < Config.cap := by
  induction ps with
  | nil => simp [rangeFault]
  | cons p ps ih =>
    simp only [rangeFault, List.mem_cons, forall_eq_or_imp]
    split
    · next k hk =>
      have hm := List.mem_of_find?_eq_some hk
      have hf := List.find?_some hk
      simp only [accessInRange, Bool.not_eq_true', decide_eq_false_iff_not] at hf
      constructor
      · intro h; cases h
      · intro h; exact absurd (h.1 k hm) hf
    · next hk =>
      rw [ih]
      have : ∀ k ∈ accesses p, k.last < Config.cap := by
        intro k hm
        have := List.find?_eq_none.mp hk k hm
        simpa [accessInRange] using this
      exact ⟨fun h => ⟨this, h⟩, fun h => h.2⟩

/-- The fault of the capacity check names a texel, and an access of it that is out of range, after texels whose
accesses are all in range (R207, R252). -/
theorem rangeFault_eq_some {op : BitVec 8} {accesses : Texel → List Access} {ps : List Texel} {f : FaultRecord}
    (h : rangeFault op accesses ps = some f) :
    ∃ p ∈ ps, ∃ k ∈ accesses p, Config.cap ≤ k.last ∧ f = ⟨.outOfRange, op, p.1, p.2, k.first⟩ := by
  induction ps with
  | nil => simp [rangeFault] at h
  | cons p ps ih =>
    simp only [rangeFault] at h
    split at h
    · next k hk =>
      have hm := List.mem_of_find?_eq_some hk
      have hf := List.find?_some hk
      simp only [accessInRange, Bool.not_eq_true', decide_eq_false_iff_not, Nat.not_lt] at hf
      exact ⟨p, by simp, k, hm, hf, (Option.some.inj h).symm⟩
    · obtain ⟨q, hq, hrest⟩ := ih h
      exact ⟨q, by simp [hq], hrest⟩

theorem inputFault_eq_none {op : BitVec 8} {supplied need : Nat} :
    inputFault op supplied need = none ↔ need ≤ supplied := by
  simp [inputFault]

/-- A transfer has no fault exactly when the coordinate limit, the capacity check and the input length hold. -/
theorem transferFault_eq_none {op : BitVec 8} {a : Surface} {r : Extent} {accesses : Texel → List Access}
    {supplied need : Nat} :
    transferFault op a r accesses supplied need = none ↔
      coordsFit a r ∧ (∀ p ∈ texelsOf a r, ∀ k ∈ accesses p, k.last < Config.cap) ∧ need ≤ supplied := by
  unfold transferFault
  rw [← coordFault_eq_none (op := op), ← rangeFault_eq_none (op := op), ← inputFault_eq_none (op := op)]
  cases coordFault op a r <;> cases rangeFault op accesses (texelsOf a r) <;> simp

/-- The accesses of an upload or a 32-bit download are in range exactly when the surface fits. -/
theorem texelAccess_inRange {f : Format} {a : Surface} {r : Extent} :
    (∀ p ∈ texelsOf a r, ∀ k ∈ texelAccess f a p, k.last < Config.cap) ↔ surfaceFits f a r := by
  constructor
  · intro h i j hi hj
    have := h (texelAt a i j) (mem_texelsOf.mpr ⟨i, j, hi, hj, rfl⟩)
    cases f <;> simpa [texelAccess, wordAccess, byteAccess, nibbleAccess, Nat.shiftRight_eq_div_pow] using this
  · intro h p hp k hk
    obtain ⟨i, j, hi, hj, rfl⟩ := mem_texelsOf.mp hp
    have := h i j hi hj
    cases f <;>
      simp_all [texelAccess, wordAccess, byteAccess, nibbleAccess, Nat.shiftRight_eq_div_pow]

/-! ### The writes of an upload (R205) -/

/-- The bytes a texel's write may change (R204). -/
def texelTouches (f : Format) (a : Surface) (p : Texel) (b : Nat) : Prop :=
  match f with
  | .psmct32 => texel32 a p ≤ b ∧ b < texel32 a p + 4
  | .psmt8 => b = texel8 a p
  | .psmt4 => b = texel4 a p / 2

theorem readByte_storeTexel_ne {f : Format} {a : Surface} {input : List Byte} {t : Nat} {p : Texel} {m : Memory}
    {b : Nat} (h : ¬ texelTouches f a p b) : readByte (storeTexel f a input t p m) b = readByte m b := by
  cases f with
  | psmct32 =>
    have h : ¬ (texel32 a p ≤ b ∧ b < texel32 a p + 4) := h
    have hl : (inputWord input t).length = 4 := rfl
    rw [storeTexel, readByte_writeBytes, hl, if_neg h]
  | psmt8 => exact readByte_writeByte_ne _ _ h
  | psmt4 => exact readByte_writeNibble_ne _ _ h

/-- An upload leaves every byte that none of its texels touches as it was. -/
theorem readByte_storeTexels_ne {f : Format} {a : Surface} {input : List Byte} {b : Nat} {ps : List Texel}
    (h : ∀ p ∈ ps, ¬ texelTouches f a p b) (t : Nat) (m : Memory) :
    readByte (storeTexels f a input t ps m) b = readByte m b := by
  induction ps generalizing t m with
  | nil => rfl
  | cons p ps ih =>
    rw [storeTexels, ih (fun q hq => h q (by simp [hq])), readByte_storeTexel_ne (h p (by simp))]

/-- The writes of a list of texels are the writes of its parts, in order. -/
theorem storeTexels_append (f : Format) (a : Surface) (input : List Byte) (t : Nat) (ps qs : List Texel)
    (m : Memory) :
    storeTexels f a input t (ps ++ qs) m =
      storeTexels f a input (t + ps.length) qs (storeTexels f a input t ps m) := by
  induction ps generalizing t m with
  | nil => rfl
  | cons p ps ih =>
    have e : t + (ps.length + 1) = t + 1 + ps.length := by omega
    simp only [List.cons_append, storeTexels, ih, List.length_cons, e]

theorem storeTexel_wf {f : Format} {a : Surface} {input : List Byte} {t : Nat} {p : Texel} {m : Memory}
    (hm : m.wf = true) (h : ∀ k ∈ texelAccess f a p, k.last < Config.cap) :
    (storeTexel f a input t p m).wf = true := by
  cases f with
  | psmct32 =>
    refine writeBytes_wf hm ?_
    have : texel32 a p + 3 < Config.cap := by simpa [texelAccess, wordAccess] using h
    have hl : (inputWord input t).length = 4 := rfl
    omega
  | psmt8 => exact writeByte_wf _ hm (by simpa [texelAccess, byteAccess] using h)
  | psmt4 =>
    exact writeNibble_wf _ hm (by simpa [texelAccess, nibbleAccess, Nat.shiftRight_eq_div_pow] using h)

/-- The writes of an upload whose accesses are in range keep the canonical form. -/
theorem storeTexels_wf {f : Format} {a : Surface} {input : List Byte} {ps : List Texel}
    (h : ∀ p ∈ ps, ∀ k ∈ texelAccess f a p, k.last < Config.cap) (t : Nat) {m : Memory} (hm : m.wf = true) :
    (storeTexels f a input t ps m).wf = true := by
  induction ps generalizing t m with
  | nil => exact hm
  | cons p ps ih => exact ih (fun q hq => h q (by simp [hq])) _ (storeTexel_wf hm (h p (by simp)))

end Sys2Proof.Machine
end

