-- ==== Sys2Proof/Laws/PerInstr.lean ====
section
/-! SUPPORT. Per-instruction family Encoding: the descriptor the encoder writes for a command has the length its OP
fixes, and its first word holds that OP (30_encoding.md R70, R71). One lemma per constructor. -/

namespace Sys2Proof.Laws.Encoding

/-- The descriptor's length is its operation's, and W0.OP names the operation. -/
def Statement (i : Instr) : Prop :=
  (encode i).length = opWords (opOf i) ∧ ((encode i).head?.map opField) = some (opCode (opOf i))

theorem clear : Statement .clear :=
  ⟨rfl, congrArg some (opField_plainWord _)⟩

theorem addr32 (a : Surface) : Statement (.addr32 a) :=
  ⟨rfl, congrArg some (opField_plainWord _)⟩

theorem addr8 (a : Surface) : Statement (.addr8 a) :=
  ⟨rfl, congrArg some (opField_plainWord _)⟩

theorem addr4 (a : Surface) : Statement (.addr4 a) :=
  ⟨rfl, congrArg some (opField_plainWord _)⟩

theorem upload32 (a : Surface) (r : Extent) : Statement (.upload32 a r) :=
  ⟨rfl, congrArg some (opField_plainWord _)⟩

theorem upload8 (a : Surface) (r : Extent) : Statement (.upload8 a r) :=
  ⟨rfl, congrArg some (opField_plainWord _)⟩

theorem upload4 (a : Surface) (r : Extent) : Statement (.upload4 a r) :=
  ⟨rfl, congrArg some (opField_plainWord _)⟩

theorem download32 (a : Surface) (r : Extent) : Statement (.download32 a r) :=
  ⟨rfl, congrArg some (opField_plainWord _)⟩

theorem download8 (a : Surface) (r : Extent) : Statement (.download8 a r) :=
  ⟨rfl, congrArg some (opField_plainWord _)⟩

theorem download4 (a : Surface) (r : Extent) : Statement (.download4 a r) :=
  ⟨rfl, congrArg some (opField_plainWord _)⟩

theorem dlidx8 (a : Surface) (r : Extent) (c : ClutRef) (alpha : Option Byte) : Statement (.dlidx8 a r c alpha) :=
  ⟨rfl, congrArg some (opField_commandWord _ _ _ _)⟩

theorem dlidx4 (a : Surface) (r : Extent) (c : ClutRef) (csa : BitVec 5) (alpha : Option Byte) : Statement (.dlidx4 a r c csa alpha) :=
  ⟨rfl, congrArg some (opField_commandWord _ _ _ _)⟩

theorem xferUp (psm : BitVec 6) (a : Surface) (r : Extent) : Statement (.xferUp psm a r) :=
  ⟨rfl, congrArg some (opField_commandWord _ _ _ _)⟩

theorem xferDown (psm : BitVec 6) (a : Surface) (r : Extent) : Statement (.xferDown psm a r) :=
  ⟨rfl, congrArg some (opField_commandWord _ _ _ _)⟩

theorem xferDlidx (psm : BitVec 6) (a : Surface) (r : Extent) (c : ClutRef) (csa : BitVec 5) (alpha : Option Byte) : Statement (.xferDlidx psm a r c csa alpha) :=
  ⟨rfl, congrArg some (opField_commandWord _ _ _ _)⟩

theorem decBitbltbuf (rw : Word64) : Statement (.decBitbltbuf rw) :=
  ⟨rfl, congrArg some (opField_plainWord _)⟩

theorem decTrxpos (rw : Word64) : Statement (.decTrxpos rw) :=
  ⟨rfl, congrArg some (opField_plainWord _)⟩

theorem decTrxreg (rw : Word64) : Statement (.decTrxreg rw) :=
  ⟨rfl, congrArg some (opField_plainWord _)⟩

theorem decTrxdir (rw : Word64) : Statement (.decTrxdir rw) :=
  ⟨rfl, congrArg some (opField_plainWord _)⟩

theorem decTex0 (rw : Word64) : Statement (.decTex0 rw) :=
  ⟨rfl, congrArg some (opField_plainWord _)⟩

theorem decClamp (rw : Word64) : Statement (.decClamp rw) :=
  ⟨rfl, congrArg some (opField_plainWord _)⟩

theorem decTex1 (rw : Word64) : Statement (.decTex1 rw) :=
  ⟨rfl, congrArg some (opField_plainWord _)⟩

theorem decTex2 (rw : Word64) : Statement (.decTex2 rw) :=
  ⟨rfl, congrArg some (opField_plainWord _)⟩

theorem encBitbltbuf (f : Bitbltbuf) : Statement (.encBitbltbuf f) :=
  ⟨rfl, congrArg some (opField_plainWord _)⟩

theorem encTrxpos (f : Trxpos) : Statement (.encTrxpos f) :=
  ⟨rfl, congrArg some (opField_plainWord _)⟩

theorem encTrxreg (f : Trxreg) : Statement (.encTrxreg f) :=
  ⟨rfl, congrArg some (opField_plainWord _)⟩

theorem encTrxdir (f : Trxdir) : Statement (.encTrxdir f) :=
  ⟨rfl, congrArg some (opField_plainWord _)⟩

theorem encTex0 (f : Tex0) : Statement (.encTex0 f) :=
  ⟨rfl, congrArg some (opField_plainWord _)⟩

theorem encClamp (f : Clamp) : Statement (.encClamp f) :=
  ⟨rfl, congrArg some (opField_plainWord _)⟩

theorem encTex1 (f : Tex1) : Statement (.encTex1 f) :=
  ⟨rfl, congrArg some (opField_plainWord _)⟩

theorem encTex2 (f : Tex2) : Statement (.encTex2 f) :=
  ⟨rfl, congrArg some (opField_plainWord _)⟩

theorem tex2FromTex0 (f : Tex0) : Statement (.tex2FromTex0 f) :=
  ⟨rfl, congrArg some (opField_plainWord _)⟩

end Sys2Proof.Laws.Encoding
end

