-- ==== Sys2Proof/Machine/HostFill.lean ====
section
/-! DEFINITION. How a host fills a command from decoded registers, a convention that does not bind the engine
(30_encoding.md R96). -/

namespace Sys2Proof.Machine

/-- The surface of an upload: the destination buffer and origin (R96). -/
def uploadSurface (b : Bitbltbuf) (p : Trxpos) : Surface := ⟨b.dbp, b.dbw, p.dsax, p.dsay⟩

/-- The surface of a download: the source buffer and origin (R96). -/
def downloadSurface (b : Bitbltbuf) (p : Trxpos) : Surface := ⟨b.sbp, b.sbw, p.ssax, p.ssay⟩

/-- The rectangle of a transfer (R96). -/
def transferExtent (r : Trxreg) : Extent := ⟨r.rrw, r.rrh⟩

/-- XFER_UP filled from the registers: PSM is DPSM (R96). -/
def fillUpload (b : Bitbltbuf) (p : Trxpos) (r : Trxreg) : Instr :=
  .xferUp b.dpsm (uploadSurface b p) (transferExtent r)

/-- XFER_DOWN filled from the registers: PSM is SPSM (R96). -/
def fillDownload (b : Bitbltbuf) (p : Trxpos) (r : Trxreg) : Instr :=
  .xferDown b.spsm (downloadSurface b p) (transferExtent r)

/-- XFER_DLIDX filled from the registers and a TEX0 value: CBP and CSA are TEX0's; the host supplies the CLUT
width and the optional fixed alpha (R96). R96 does not say where the index surface and PSM come from: they are taken
as for a download, from BITBLTBUF and TRXPOS, and not from TEX0 (DESIGN CHOICE, log entry 20). -/
def fillIndexedDownload (b : Bitbltbuf) (p : Trxpos) (r : Trxreg) (t : Tex0) (cbw : BitVec 6)
    (alpha : Option Byte) : Instr :=
  .xferDlidx b.spsm (downloadSurface b p) (transferExtent r) ⟨t.cbp, cbw⟩ t.csa alpha

end Sys2Proof.Machine
end

