-- ==== Sys2Proof/Machine/RegisterMap.lean ====
section
/-! DEFINITION. Names the spec gives for information (30_encoding.md R94, R95): the enumerated values of register
fields and the GS addresses of the registers. No operation of the block reads either: the codec stores fields raw
(R91) and the block has no register address decoder (R95). They stand here so that a host's view of a decoded
record can be stated. -/

namespace Sys2Proof.Machine

/-- TRXDIR.XDIR (R94). -/
inductive TransferDirection where
  | hostToLocal
  | localToHost
  | localToLocal
  | deactivated
  deriving DecidableEq, Repr

/-- The transfer direction of a TRXDIR record (R94). -/
def transferDirection (f : Trxdir) : TransferDirection :=
  match f.xdir.toNat with
  | 0 => .hostToLocal
  | 1 => .localToHost
  | 2 => .localToLocal
  | _ => .deactivated

/-- TRXPOS.DIR (R94). -/
inductive PixelOrder where
  | upperLeftToLowerRight
  | lowerLeftToUpperRight
  | upperRightToLowerLeft
  | lowerRightToUpperLeft
  deriving DecidableEq, Repr

/-- The pixel transmission order a TRXPOS record names; the engine does not consult it (R91, R94, R201). -/
def pixelOrder (f : Trxpos) : PixelOrder :=
  match f.dir.toNat with
  | 0 => .upperLeftToLowerRight
  | 1 => .lowerLeftToUpperRight
  | 2 => .upperRightToLowerLeft
  | _ => .lowerRightToUpperLeft

/-- TEX0.TCC (R94). -/
inductive ColorComponents where
  | rgb
  | rgba
  deriving DecidableEq, Repr

/-- The color components of a TEX0 record (R94). -/
def colorComponents (f : Tex0) : ColorComponents := if f.tcc = 0 then .rgb else .rgba

/-- TEX0.TFX (R94). -/
inductive TextureFunction where
  | modulate
  | decal
  | highlight
  | highlight2
  deriving DecidableEq, Repr

/-- The texture function of a TEX0 record (R94). -/
def textureFunction (f : Tex0) : TextureFunction :=
  match f.tfx.toNat with
  | 0 => .modulate
  | 1 => .decal
  | 2 => .highlight
  | _ => .highlight2

/-- CPSM (R94). -/
inductive ClutFormat where
  | psmct32
  | psmct16
  | psmct16s
  deriving DecidableEq, Repr

/-- The CLUT format a CPSM value names, if any (R94). -/
def clutFormat (cpsm : BitVec 4) : Option ClutFormat :=
  match cpsm.toNat with
  | 0 => some .psmct32
  | 2 => some .psmct16
  | 10 => some .psmct16s
  | _ => none

/-- CSM (R87). -/
inductive ClutStorage where
  | csm1
  | csm2
  deriving DecidableEq, Repr

/-- The CLUT storage mode a CSM bit names; the engine does not consult it (R87, R226). -/
def clutStorage (csm : BitVec 1) : ClutStorage := if csm = 0 then .csm1 else .csm2

/-- CLD (R94). -/
inductive ClutLoad where
  | notChanged
  | load
  | loadCopyCbp0
  | loadCopyCbp1
  | copyIfCbp0Differs
  | copyIfCbp1Differs
  | reserved
  deriving DecidableEq, Repr

/-- The CLUT buffer load control a CLD value names (R94). -/
def clutLoad (cld : BitVec 3) : ClutLoad :=
  match cld.toNat with
  | 0 => .notChanged
  | 1 => .load
  | 2 => .loadCopyCbp0
  | 3 => .loadCopyCbp1
  | 4 => .copyIfCbp0Differs
  | 5 => .copyIfCbp1Differs
  | _ => .reserved

/-- CLAMP.WMS and CLAMP.WMT (R94). -/
inductive WrapMode where
  | repeat_
  | clamp
  | regionClamp
  | regionRepeat
  deriving DecidableEq, Repr

/-- The wrap mode a WMS or WMT value names (R94). -/
def wrapMode (v : BitVec 2) : WrapMode :=
  match v.toNat with
  | 0 => .repeat_
  | 1 => .clamp
  | 2 => .regionClamp
  | _ => .regionRepeat

/-- TEX1.LCM (R94). -/
inductive LodMethod where
  | formula
  | fixedK
  deriving DecidableEq, Repr

/-- The LOD calculation method of a TEX1 record (R94). -/
def lodMethod (f : Tex1) : LodMethod := if f.lcm = 0 then .formula else .fixedK

/-- The texture filters of TEX1.MMAG and TEX1.MMIN (R94). -/
inductive Filter where
  | nearest
  | linear
  | nearestMipmapNearest
  | nearestMipmapLinear
  | linearMipmapNearest
  | linearMipmapLinear
  | reserved
  deriving DecidableEq, Repr

/-- The magnification filter of a TEX1 record (R94). -/
def magnification (f : Tex1) : Filter := if f.mmag = 0 then .nearest else .linear

/-- The minification filter of a TEX1 record (R94). -/
def minification (f : Tex1) : Filter :=
  match f.mmin.toNat with
  | 0 => .nearest
  | 1 => .linear
  | 2 => .nearestMipmapNearest
  | 3 => .nearestMipmapLinear
  | 4 => .linearMipmapNearest
  | 5 => .linearMipmapLinear
  | _ => .reserved

/-- TEX1.MTBA (R94). -/
inductive MipBase where
  | fromMiptbp
  | automatic
  deriving DecidableEq, Repr

/-- Where the MIP base addresses of a TEX1 record come from (R94). -/
def mipBase (f : Tex1) : MipBase := if f.mtba = 0 then .fromMiptbp else .automatic

/-- The GS addresses of the registers (R95). -/
def gsRegisterAddresses : List (String × Byte) :=
  [("TEX0_1", 0x06), ("TEX0_2", 0x07), ("CLAMP_1", 0x08), ("CLAMP_2", 0x09), ("TEX1_1", 0x14),
   ("TEX1_2", 0x15), ("TEX2_1", 0x16), ("TEX2_2", 0x17), ("BITBLTBUF", 0x50), ("TRXPOS", 0x51),
   ("TRXREG", 0x52), ("TRXDIR", 0x53)]

end Sys2Proof.Machine
end

