-- ==== Sys2Proof/Tests/Slice0.lean ====
section
/-! SUPPORT. Tests. Every expected value is one the spec states (95_test_vectors.md, or the rule named), never the
model's own answer: well-formedness, one decode per constructor, one behaviour per instruction, the machine around
them, and a witness for the hypotheses of every obligation that has some. -/

namespace Sys2Proof.Tests

set_option Elab.async false

open Sys2Proof.Machine

/-! ### Helpers -/

/-- The next state of an outcome, if it has one. -/
def nextOf : Host.Outcome State Fault Refusal → Option State
  | .next s => some s
  | .fault _ => none
  | .refused _ => none

theorem next_of {o : Host.Outcome State Fault Refusal} {t : State} (h : nextOf o = some t) : o = .next t := by
  cases o <;> simp_all [nextOf]

/-- One step of an instance with memory `m` that is offered the descriptor `ws` and the input stream `input`. -/
def offer (m : Memory) (ws : List Word64) (input : List Byte) : Host.Outcome State Fault Refusal :=
  step { State.reset with mem := m, commands := [⟨ws, input⟩] }

/-- The responses that step leaves on the result port. -/
def answer (m : Memory) (ws : List Word64) (input : List Byte) : Option (List Response) :=
  (nextOf (offer m ws input)).map State.results

/-- The memory it leaves. -/
def memory (m : Memory) (ws : List Word64) (input : List Byte) : Option Memory :=
  (nextOf (offer m ws input)).map State.mem

/-- The fault record it leaves. -/
def record (m : Memory) (ws : List Word64) (input : List Byte) : Option (Option FaultRecord) :=
  (nextOf (offer m ws input)).map State.fault

/-- The command a descriptor decodes to. -/
def decoded (ws : List Word64) : Option Instr :=
  match decodeWords ws with
  | .ok (i, _) => some i
  | .error _ => none


/-! ### Well-formedness (R80, R70): a well-formed term, and an ill-formed one for each check -/

theorem test_wf_line : Line.wellFormed ⟨.upload32, [.num 16383, .num 63, .num 2047, .num 2047, .num 4095, .num 4095,
    .bytes [0x11, 0xFF]]⟩ = true := by decide +kernel

theorem test_illformed_bp : Line.wellFormed ⟨.addr32, [.num 16384, .num 1, .num 0, .num 0]⟩ = false := by
  decide +kernel

theorem test_illformed_bw : Line.wellFormed ⟨.addr32, [.num 0, .num 64, .num 0, .num 0]⟩ = false := by
  decide +kernel

theorem test_illformed_x : Line.wellFormed ⟨.addr32, [.num 0, .num 1, .num 2048, .num 0]⟩ = false := by
  decide +kernel

theorem test_illformed_y : Line.wellFormed ⟨.addr32, [.num 0, .num 1, .num 0, .num 2048]⟩ = false := by
  decide +kernel

theorem test_illformed_w : Line.wellFormed ⟨.download32, [.num 0, .num 1, .num 0, .num 0, .num 4096, .num 1]⟩ = false := by
  decide +kernel

theorem test_illformed_h : Line.wellFormed ⟨.download32, [.num 0, .num 1, .num 0, .num 0, .num 1, .num 4096]⟩ = false := by
  decide +kernel

theorem test_illformed_cbp : Line.wellFormed ⟨.dlidx8, [.num 0, .num 1, .num 0, .num 0, .num 1, .num 1, .num 16384, .num 1]⟩ = false := by
  decide +kernel

theorem test_illformed_cbw : Line.wellFormed ⟨.dlidx8, [.num 0, .num 1, .num 0, .num 0, .num 1, .num 1, .num 0, .num 64]⟩ = false := by
  decide +kernel

theorem test_illformed_csa : Line.wellFormed ⟨.dlidx4, [.num 0, .num 1, .num 0, .num 0, .num 1, .num 1, .num 0, .num 1, .num 32]⟩ = false := by
  decide +kernel

theorem test_illformed_alpha : Line.wellFormed ⟨.dlidx8, [.num 0, .num 1, .num 0, .num 0, .num 1, .num 1, .num 0, .num 1, .alpha 256]⟩ = false := by
  decide +kernel

theorem test_illformed_psm : Line.wellFormed ⟨.xferDown, [.num 64, .num 0, .num 1, .num 0, .num 0, .num 1, .num 1]⟩ = false := by
  decide +kernel

theorem test_illformed_psm_name : Line.wellFormed ⟨.xferDown, [.psm "PSMCT33", .num 0, .num 1, .num 0, .num 0, .num 1, .num 1]⟩ = false := by
  decide +kernel

theorem test_illformed_input_byte : Line.wellFormed ⟨.upload8, [.num 0, .num 1, .num 0, .num 0, .num 1, .num 1, .bytes [256]]⟩ = false := by
  decide +kernel

theorem test_illformed_input_missing : Line.wellFormed ⟨.upload8, [.num 0, .num 1, .num 0, .num 0, .num 1, .num 1]⟩ = false := by
  decide +kernel

theorem test_illformed_left_over : Line.wellFormed ⟨.clear, [.num 0]⟩ = false := by
  decide +kernel

theorem test_illformed_missing : Line.wellFormed ⟨.addr8, [.num 0, .num 1, .num 0]⟩ = false := by
  decide +kernel

theorem test_illformed_register_word : Line.wellFormed ⟨.decTex0, [.num 18446744073709551616]⟩ = false := by
  decide +kernel

theorem test_illformed_field_value : Line.wellFormed ⟨.encTrxreg, [.fields [("RRW", 4096)]]⟩ = false := by
  decide +kernel

theorem test_illformed_field_unknown : Line.wellFormed ⟨.encTrxreg, [.fields [("SBP", 1)]]⟩ = false := by
  decide +kernel

theorem test_illformed_field_twice : Line.wellFormed ⟨.encTrxreg, [.fields [("RRW", 1), ("RRW", 1)]]⟩ = false := by
  decide +kernel


theorem test_wf_command : Command.wellFormed ⟨[0x10, 0x0001000700010000], []⟩ = true := by decide +kernel

theorem test_illformed_commands :
    Command.wellFormed ⟨[], []⟩ = false ∧ Command.wellFormed ⟨[0x13, 0], []⟩ = false ∧
    Command.wellFormed ⟨[0x10], []⟩ = false ∧ Command.wellFormed ⟨[0x10, 0, 0], []⟩ = false := by decide +kernel

/-! ### The written form (R80, V-ENC) -/

theorem test_text_dlidx4 : assembleText "DLIDX4 0x20, 2, 0, 0, 1, 1, 0x40, 1, 3, alpha=128" =
    some ⟨[0x0000000380010041, 0x0000000000020020, 0x0000000100000001, 0x0000000000010040], []⟩ := by
  decide +kernel

theorem test_text_xferUp : assembleText "XFER_UP PSMT8, 0, 2, 0, 0, 2, 1, IN=07 08" =
    some ⟨[0x0000000000001350, 0x0000000000020000, 0x0000000100000002], [0x07, 0x08]⟩ := by decide +kernel

/-- R80: `csa` left out is zero, and no `alpha` is AEN = 0. -/
theorem test_text_csaLeftOut : assembleText "XFER_DLIDX PSMT4, 0, 2, 0, 0, 1, 1, 0x40, 1" =
    some ⟨[0x1452, 0x20000, 0x100000001, 0x10040], []⟩ := by decide +kernel

theorem test_text_refuses : assembleText "ADDR32 0, 64, 0, 0" = none ∧ assembleText "ADDR16 0, 1, 0, 0" = none := by
  decide +kernel


/-! ### Decoding: one descriptor for each constructor, written out from the encoding -/

/-- CLEAR, R70, R77. -/
theorem test_decode_clear :
    decoded [0x01] = some (.clear) := by decide +kernel

/-- V-ENC. -/
theorem test_decode_addr32 :
    decoded [0x10, 0x0001000700010000] = some (.addr32 ⟨0, 1, 7, 1⟩) := by decide +kernel

/-- R72, R77. -/
theorem test_decode_addr8 :
    decoded [0x11, 0x07FF07FF003F3FFF] = some (.addr8 ⟨16383, 63, 2047, 2047⟩) := by decide +kernel

/-- R72, R77. -/
theorem test_decode_addr4 :
    decoded [0x12, 0x0007000500020020] = some (.addr4 ⟨0x20, 2, 5, 7⟩) := by decide +kernel

/-- V-ENC. -/
theorem test_decode_upload32 :
    decoded [0x20, 0x10000, 0x200000002] = some (.upload32 ⟨0, 1, 0, 0⟩ ⟨2, 2⟩) := by decide +kernel

/-- P2 step 3. -/
theorem test_decode_upload8 :
    decoded [0x21, 0x20000, 0x100000004] = some (.upload8 ⟨0, 2, 0, 0⟩ ⟨4, 1⟩) := by decide +kernel

/-- P3 step 3. -/
theorem test_decode_upload4 :
    decoded [0x22, 0x0002000000020000, 0x0000000100000001] = some (.upload4 ⟨0, 2, 0, 2⟩ ⟨1, 1⟩) := by decide +kernel

/-- P1 step 3. -/
theorem test_decode_download32 :
    decoded [0x30, 0x10000, 0x200000002] = some (.download32 ⟨0, 1, 0, 0⟩ ⟨2, 2⟩) := by decide +kernel

/-- R72, R73, R77. -/
theorem test_decode_download8 :
    decoded [0x31, 0x0007000500020020, 0x00000FFF00000FFF] = some (.download8 ⟨0x20, 2, 5, 7⟩ ⟨4095, 4095⟩) := by decide +kernel

/-- R72, R73, R77. -/
theorem test_decode_download4 :
    decoded [0x32, 0x0007000500020020, 0x0000000400000003] = some (.download4 ⟨0x20, 2, 5, 7⟩ ⟨3, 4⟩) := by decide +kernel

/-- P2 step 5. -/
theorem test_decode_dlidx8 :
    decoded [0x80010040, 0x20000, 0x100000004, 0x10040] = some (.dlidx8 ⟨0, 2, 0, 0⟩ ⟨4, 1⟩ ⟨0x40, 1⟩ (some 128)) := by decide +kernel

/-- P3 step 6. -/
theorem test_decode_dlidx4 :
    decoded [0x300000041, 0x0002000000020000, 0x100000001, 0x10040] = some (.dlidx4 ⟨0, 2, 0, 2⟩ ⟨1, 1⟩ ⟨0x40, 1⟩ 3 none) := by decide +kernel

/-- V-ENC. -/
theorem test_decode_xferUp :
    decoded [0x1350, 0x20000, 0x100000002] = some (.xferUp 0x13 ⟨0, 2, 0, 0⟩ ⟨2, 1⟩) := by decide +kernel

/-- R71, R77; reserved bits 15:14 of W0 set, R76. -/
theorem test_decode_xferDown :
    decoded [0xFF51, 0x0007000500020020, 0x0000000400000003] = some (.xferDown 0x3F ⟨0x20, 2, 5, 7⟩ ⟨3, 4⟩) := by decide +kernel

/-- R71, R74, R77. -/
theorem test_decode_xferDlidx :
    decoded [0x1F80011452, 0x0007000500020020, 0x0000000400000003, 0x0000000000010040] = some (.xferDlidx 0x14 ⟨0x20, 2, 5, 7⟩ ⟨3, 4⟩ ⟨0x40, 1⟩ 31 (some 128)) := by decide +kernel

/-- R77. -/
theorem test_decode_decBitbltbuf :
    decoded [0x80, 0x2300080599404000] = some (.decBitbltbuf 0x2300080599404000) := by decide +kernel

/-- R77. -/
theorem test_decode_decTrxpos :
    decoded [0x81, 0x2300080599404000] = some (.decTrxpos 0x2300080599404000) := by decide +kernel

/-- R77. -/
theorem test_decode_decTrxreg :
    decoded [0x82, 0x2300080599404000] = some (.decTrxreg 0x2300080599404000) := by decide +kernel

/-- R77. -/
theorem test_decode_decTrxdir :
    decoded [0x83, 0x2300080599404000] = some (.decTrxdir 0x2300080599404000) := by decide +kernel

/-- V-ENC, R77. -/
theorem test_decode_decTex0 :
    decoded [0x84, 0x2300080599404000] = some (.decTex0 0x2300080599404000) := by decide +kernel

/-- R77. -/
theorem test_decode_decClamp :
    decoded [0x85, 0x2300080599404000] = some (.decClamp 0x2300080599404000) := by decide +kernel

/-- R77. -/
theorem test_decode_decTex1 :
    decoded [0x86, 0x2300080599404000] = some (.decTex1 0x2300080599404000) := by decide +kernel

/-- R77. -/
theorem test_decode_decTex2 :
    decoded [0x87, 0x2300080599404000] = some (.decTex2 0x2300080599404000) := by decide +kernel

/-- V-REG; the record's word is log entry 5. -/
theorem test_decode_encBitbltbuf :
    decoded [0x90, 0x1302002000000000] = some (.encBitbltbuf ⟨0, 0, 0, 0x20, 2, 0x13⟩) := by decide +kernel

/-- V-REG; the record's word is log entry 5. -/
theorem test_decode_encTrxpos :
    decoded [0x91, 0x00010000000007FF] = some (.encTrxpos ⟨2047, 0, 0, 1, 0⟩) := by decide +kernel

/-- V-REG; the record's word is log entry 5. -/
theorem test_decode_encTrxreg :
    decoded [0x92, 0x0000000200000002] = some (.encTrxreg ⟨2, 2⟩) := by decide +kernel

/-- V-REG; the record's word is log entry 5. -/
theorem test_decode_encTrxdir :
    decoded [0x93, 0x0000000000000001] = some (.encTrxdir ⟨1⟩) := by decide +kernel

/-- V-REG; the record's word is log entry 5. -/
theorem test_decode_encTex0 :
    decoded [0x94, 0x2300080599404000] = some (.encTex0 ⟨0, 1, 0x14, 6, 6, 1, 0, 0x40, 0, 0, 3, 1⟩) := by decide +kernel

/-- V-REG; the record's word is log entry 5. -/
theorem test_decode_encClamp :
    decoded [0x95, 0x00000FFC00FFC005] = some (.encClamp ⟨1, 1, 0, 1023, 0, 1023⟩) := by decide +kernel

/-- V-REG; the record's word is log entry 5. -/
theorem test_decode_encTex1 :
    decoded [0x96, 0x00000FF000000061] = some (.encTex1 ⟨1, 0, 1, 1, 0, 0, 0xFF0⟩) := by decide +kernel

/-- V-REG; the record's word is log entry 5. -/
theorem test_decode_encTex2 :
    decoded [0x97, 0x2300080001400000] = some (.encTex2 ⟨0x14, 0x40, 0, 0, 3, 1⟩) := by decide +kernel

/-- V-REG; the record's word is log entry 5. -/
theorem test_decode_tex2FromTex0 :
    decoded [0xA0, 0x2300080599404000] = some (.tex2FromTex0 ⟨0, 1, 0x14, 6, 6, 1, 0, 0x40, 0, 0, 3, 1⟩) := by decide +kernel

/-- R76, V-ENC: UPLOAD32 with every bit of W0 outside OP set. -/
theorem test_decode_unusedBits :
    decoded [0xFFFFFFFFFFFFFF20, 0x10000, 0x200000002] = some (.upload32 ⟨0, 1, 0, 0⟩ ⟨2, 2⟩) := by decide +kernel

/-- R46: the descriptor's bytes, the least significant first. -/
theorem test_decode_bytes : decodeBytes [0x10, 0, 0, 0, 0, 0, 0, 0, 0, 0, 0x01, 0, 0x07, 0, 0x01, 0, 0xAB] =
    .ok (.addr32 ⟨0, 1, 7, 1⟩, [0xAB]) := by decide +kernel

/-- R77, R78: exactly 32 values of OP are legal. -/
theorem test_decode_legalCount :
    ((List.range 256).filter fun n => (opOfCode (BitVec.ofNat 8 n)).isSome).length = 32 := by decide +kernel

theorem test_decodeTableWord : decodeTableWord 128 0x00010007000100000000000000000010 = some (.addr32 ⟨0, 1, 7, 1⟩) ∧
    decodeTableWord 8 0x20 = some (.upload32 ⟨0, 0, 0, 0⟩ ⟨0, 0⟩) ∧ decodeTableWord 8 0x13 = none := by
  decide +kernel

theorem test_withFetchWord : (nextOf (step (State.reset.withFetchWord 128 0x00010007000100000000000000000010))).map
    State.results = some [⟨.ok, .offset 60⟩] := by decide +kernel


/-! ### Tables and operand rules (V-TAB, V-CL, V-AL) -/

theorem test_tables : [tableAt bt32 0 7, tableAt bt32 3 0, tableAt bt8 3 7, tableAt bt4 1 0, tableAt bt4 0 1,
    tableAt bt4 7 3, tableAt ct32 2 0, tableAt ct32 7 7, tableAt ct8 0 8, tableAt ct8 2 0, tableAt ct8 15 15,
    tableAt ct4 0 8, tableAt ct4 2 0, tableAt ct4 15 31] = [21, 10, 31, 1, 2, 31, 16, 63, 2, 33, 255, 2, 65, 511] := by
  decide +kernel

theorem test_clut8 : ([1, 7, 8, 16, 23, 24, 32, 63, 64, 127, 128, 200, 255] : List Byte).map clut8 =
    [(1, 0), (7, 0), (0, 1), (8, 0), (15, 0), (8, 1), (0, 2), (15, 3), (0, 4), (15, 7), (0, 8), (0, 13),
     (15, 15)] := by decide +kernel

theorem test_clut4 : ([(7, 0), (8, 0), (0, 1), (15, 1), (0, 2), (9, 3), (5, 3), (10, 3), (15, 15), (0, 16),
    (15, 31)] : List (Nibble × BitVec 5)).map (fun p => clut4 p.1 p.2) =
    [(7, 0), (0, 1), (8, 0), (15, 1), (0, 2), (9, 3), (13, 2), (10, 3), (15, 15), (0, 16), (15, 31)] := by
  decide +kernel

theorem test_alpha : ([(none, 0x01), (none, 0x40), (none, 0x7F), (none, 0x80), (none, 0xFF), (some 0x00, 0xFF),
    (some 0x80, 0x40)] : List (Option Byte × Byte)).map (fun p => alphaOut p.1 p.2) =
    [0x02, 0x80, 0xFE, 0xFF, 0xFF, 0x00, 0x80] := by decide +kernel

/-- R93: the three classes. -/
theorem test_psm : [psmClass 0x00, psmClass 0x13, psmClass 0x14, psmClass 0x0A, psmClass 0x1B, psmClass 0x3F] =
    [.supported .psmct32, .supported .psmt8, .supported .psmt4, .recognised, .unrecognised, .unrecognised] := by
  decide +kernel

/-! ### One behaviour of each instruction, in one step -/

/-- S5, R213. -/
theorem test_clear : memory [(0, 0x11), (4194303, 0x22)] [0x01] [] = some [] := by decide +kernel

/-- V-A32: a texel whose block carries out of the page, and an offset beyond `CAP`. -/
theorem test_addr32 : answer [] [0x10, 0x000000080001001F] [] = some [⟨.ok, .offset 8192⟩] ∧
    answer [] [0x10, 0x001F003F00013FFF] [] = some [⟨.ok, .offset 4202236⟩] := by decide +kernel

/-- V-A8. -/
theorem test_addr8 : answer [] [0x11, 0x0002000000020000] [] = some [⟨.ok, .offset 33⟩] ∧
    answer [] [0x11, 0x006400C800040000] [] = some [⟨.ok, .offset 30818⟩] := by decide +kernel

/-- V-A4. -/
theorem test_addr4 : answer [] [0x12, 0x0002000000020000] [] = some [⟨.ok, .offset 65⟩] ∧
    answer [] [0x12, 0x00C8012C00040000] [] = some [⟨.ok, .offset 75074⟩] := by decide +kernel

/-- V-UP32, V-F: the last texel below `CAP`. -/
theorem test_upload32 : memory [] [0x20, 0x10000, 0x100000002] [0x11, 0x22, 0x33, 0x44, 0x55, 0x66, 0x77, 0x88] =
    some [(0, 0x11), (1, 0x22), (2, 0x33), (3, 0x44), (4, 0x55), (5, 0x66), (6, 0x77), (7, 0x88)] ∧
    memory [] [0x20, 0x13FFF, 0x100000001] [1, 2, 3, 4] =
      some [(4194048, 1), (4194049, 2), (4194050, 3), (4194051, 4)] := by decide +kernel

/-- V-UP8, V-EXCESS. -/
theorem test_upload8 : memory [] [0x21, 0x20000, 0x100000010] [0, 1, 2, 3, 4, 5, 6, 7, 8, 9, 10, 11, 12, 13, 14, 15] =
    some [(0x02, 8), (0x04, 1), (0x06, 9), (0x10, 2), (0x12, 10), (0x14, 3), (0x16, 11), (0x20, 4), (0x22, 12),
      (0x24, 5), (0x26, 13), (0x30, 6), (0x32, 14), (0x34, 7), (0x36, 15)] ∧
    memory [] [0x21, 0x20000, 0x100000001] [0xAB, 0xCD, 0xEF] = some [(0, 0xAB)] := by decide +kernel

/-- V-UP4a, V-UP4b, V-UP4c: packing, and the other lane of a byte preserved. -/
theorem test_upload4 : memory [] [0x22, 0x20000, 0x100000003] [0x21, 0xF3] = some [(0x00, 1), (0x04, 2), (0x10, 3)] ∧
    memory [(0, 0x5A)] [0x22, 0x0002000400020000, 0x100000001] [0x07] = some [(0, 0x7A)] ∧
    memory [(0, 0x5A)] [0x22, 0x20000, 0x100000001] [0x03] = some [(0, 0x53)] := by decide +kernel

/-- V-DN32: texel (1, 1) of the rectangle P1 uploads. -/
theorem test_download32 : answer [(11, 0x77), (12, 0xDD), (13, 0xEE), (14, 0xFF)] [0x30, 0x0001000100010000, 0x100000001]
    [] = some [⟨.ok, .bytes [0xDD, 0xEE, 0xFF, 0x00]⟩] := by decide +kernel

/-- V-DN8: no check is made. -/
theorem test_download8 : answer [] [0x31, 0x07FF07FF00013FFF, 0x00000FFF00000FFF] [] =
    some [⟨.unsupported, .bytes []⟩] := by decide +kernel

/-- V-DN4: no check is made. -/
theorem test_download4 : answer [] [0x32, 0x07FF07FF00013FFF, 0x00000FFF00000FFF] [] =
    some [⟨.unsupported, .bytes []⟩] := by decide +kernel

/-- P2 steps 4 and 5, texels 1 and 2: index 1 is the cell at 0x4004, index 8 the cell at 0x4008. -/
theorem test_dlidx8 :
    answer [(0x04, 1), (0x10, 8), (0x4004, 0x11), (0x4005, 0x21), (0x4006, 0x31), (0x4007, 0xFF), (0x4008, 0x12),
      (0x4009, 0x22), (0x400A, 0x32)] [0x40, 0x0000000100020000, 0x100000002, 0x10040] [] =
      some [⟨.ok, .bytes [0x11, 0x21, 0x31, 0xFF, 0x12, 0x22, 0x32, 0x00]⟩] ∧
    answer [(0x04, 1), (0x4004, 0x11), (0x4005, 0x21), (0x4006, 0x31), (0x4007, 0xFF)]
      [0x80010040, 0x0000000100020000, 0x100000001, 0x10040] [] =
      some [⟨.ok, .bytes [0x11, 0x21, 0x31, 0x80]⟩] := by decide +kernel

/-- P3 steps 6 and 7: the high lane and the low lane of byte 0x20, with CSA = 3. -/
theorem test_dlidx4 :
    answer [(0x20, 0x5A), (0x4164, 0xC0), (0x4165, 0xC1), (0x4166, 0xC2), (0x4167, 0x81)]
      [0x300000041, 0x0002000000020000, 0x100000001, 0x10040] [] = some [⟨.ok, .bytes [0xC0, 0xC1, 0xC2, 0xFF]⟩] ∧
    answer [(0x20, 0x5A), (0x4158, 0xD0), (0x4159, 0xD1), (0x415A, 0xD2), (0x415B, 0x20)]
      [0x300000041, 0x0000000400020000, 0x100000001, 0x10040] [] =
      some [⟨.ok, .bytes [0xD0, 0xD1, 0xD2, 0x40]⟩] := by decide +kernel

/-- V-XF: PSMT8 as UPLOAD8 (V-DN-ALIAS's bytes), PSMCT16 unsupported. -/
theorem test_xferUp : memory [] [0x1350, 0x20000, 0x100000002] [7, 8] = some [(0, 7), (4, 8)] ∧
    answer [] [0x0250, 0x10000, 0x100000001] [0xFF, 0xFF] = some [⟨.unsupported, .bytes []⟩] := by decide +kernel

/-- V-XF, V-DN-ALIAS: PSMCT32 as DOWNLOAD32, PSMT8 unsupported. -/
theorem test_xferDown : answer [(0, 7), (4, 8)] [0x0051, 0x10000, 0x100000002] [] =
      some [⟨.ok, .bytes [7, 0, 0, 0, 8, 0, 0, 0]⟩] ∧
    answer [(0, 7)] [0x1351, 0x20000, 0x100000002] [] = some [⟨.unsupported, .bytes []⟩] := by decide +kernel

/-- V-XF: PSMT4 as DLIDX4 (P3 step 6), PSMCT32 unsupported. -/
theorem test_xferDlidx :
    answer [(0x20, 0x5A), (0x4164, 0xC0), (0x4165, 0xC1), (0x4166, 0xC2), (0x4167, 0x81)]
      [0x300001452, 0x0002000000020000, 0x100000001, 0x10040] [] = some [⟨.ok, .bytes [0xC0, 0xC1, 0xC2, 0xFF]⟩] ∧
    answer [] [0x0052, 0x10000, 0x100000001, 0x10000] [] = some [⟨.unsupported, .bytes []⟩] := by decide +kernel

/-- V-REG. -/
theorem test_decBitbltbuf : answer [] [0x80, 0x1402000000000000] [] =
    some [⟨.ok, .bitbltbuf ⟨0, 0, 0, 0, 2, 0x14⟩⟩] := by decide +kernel

/-- V-REG. -/
theorem test_decTrxpos : answer [] [0x81, 0x1800001000000000] [] =
    some [⟨.ok, .trxpos ⟨0, 0, 0x10, 0, 3⟩⟩] := by decide +kernel

/-- V-REG. -/
theorem test_decTrxreg : answer [] [0x82, 0xFFFFFFFFFFFFFFFF] [] =
    some [⟨.ok, .trxreg ⟨0xFFF, 0xFFF⟩⟩] := by decide +kernel

/-- V-REG. -/
theorem test_decTrxdir : answer [] [0x83, 0x7] [] =
    some [⟨.ok, .trxdir ⟨3⟩⟩] := by decide +kernel

/-- V-REG. -/
theorem test_decTex0 : answer [] [0x84, 0x2300080599404000] [] =
    some [⟨.ok, .tex0 ⟨0, 1, 0x14, 6, 6, 1, 0, 0x40, 0, 0, 3, 1⟩⟩] := by decide +kernel

/-- V-REG. -/
theorem test_decClamp : answer [] [0x85, 0xFFFFFFFFFFFFFFFF] [] =
    some [⟨.ok, .clamp ⟨3, 3, 1023, 1023, 1023, 1023⟩⟩] := by decide +kernel

/-- V-REG. -/
theorem test_decTex1 : answer [] [0x86, 0xFFFFFFFFFFFFFFFF] [] =
    some [⟨.ok, .tex1 ⟨1, 7, 1, 7, 1, 3, 0xFFF⟩⟩] := by decide +kernel

/-- V-REG. -/
theorem test_decTex2 : answer [] [0x87, 0x2300080599404000] [] =
    some [⟨.ok, .tex2 ⟨0x14, 0x40, 0, 0, 3, 1⟩⟩] := by decide +kernel

/-- V-REG. -/
theorem test_encBitbltbuf : nextOf (exec (.encBitbltbuf ⟨0, 0, 0, 0x20, 2, 0x13⟩) State.reset) =
    some { State.reset with results := [⟨.ok, .word 0x1302002000000000⟩] } := by decide +kernel

/-- V-REG. -/
theorem test_encTrxpos : nextOf (exec (.encTrxpos ⟨2047, 0, 0, 1, 0⟩) State.reset) =
    some { State.reset with results := [⟨.ok, .word 0x00010000000007FF⟩] } := by decide +kernel

/-- V-REG. -/
theorem test_encTrxreg : nextOf (exec (.encTrxreg ⟨2, 2⟩) State.reset) =
    some { State.reset with results := [⟨.ok, .word 0x0000000200000002⟩] } := by decide +kernel

/-- V-REG. -/
theorem test_encTrxdir : nextOf (exec (.encTrxdir ⟨1⟩) State.reset) =
    some { State.reset with results := [⟨.ok, .word 0x0000000000000001⟩] } := by decide +kernel

/-- V-REG. -/
theorem test_encTex0 : nextOf (exec (.encTex0 ⟨0, 1, 0x14, 6, 6, 1, 0, 0x40, 0, 0, 3, 1⟩) State.reset) =
    some { State.reset with results := [⟨.ok, .word 0x2300080599404000⟩] } := by decide +kernel

/-- V-REG. -/
theorem test_encClamp : nextOf (exec (.encClamp ⟨1, 1, 0, 1023, 0, 1023⟩) State.reset) =
    some { State.reset with results := [⟨.ok, .word 0x00000FFC00FFC005⟩] } := by decide +kernel

/-- V-REG. -/
theorem test_encTex1 : nextOf (exec (.encTex1 ⟨1, 0, 1, 1, 0, 0, 0xFF0⟩) State.reset) =
    some { State.reset with results := [⟨.ok, .word 0x00000FF000000061⟩] } := by decide +kernel

/-- V-REG. -/
theorem test_encTex2 : nextOf (exec (.encTex2 ⟨0x14, 0x40, 0, 0, 3, 1⟩) State.reset) =
    some { State.reset with results := [⟨.ok, .word 0x2300080001400000⟩] } := by decide +kernel

/-- V-REG. -/
theorem test_tex2FromTex0 : nextOf (exec (.tex2FromTex0 ⟨0, 1, 0x14, 6, 6, 1, 0, 0x40, 0, 0, 3, 1⟩) State.reset) =
    some { State.reset with results := [⟨.ok, .tex2 ⟨0x14, 0x40, 0, 0, 3, 1⟩⟩] } := by decide +kernel


/-! ### Faults and their priority (V-F) -/

theorem test_illegalOp : record [] [0x00] [] = some (some ⟨.illegalOp, 0x00, 0, 0, 0⟩) ∧
    record [] [0xFF] [] = some (some ⟨.illegalOp, 0xFF, 0, 0, 0⟩) := by decide +kernel

theorem test_coordOverflow :
    record [] [0x20, 0x000007FF00010000, 0x100000002] [] = some (some ⟨.coordOverflow, 0x20, 2049, 1, 0⟩) ∧
    record [] [0x30, 0x07D0000000010000, 0x3100000001] [] = some (some ⟨.coordOverflow, 0x30, 1, 2049, 0⟩) ∧
    record [] [0x20, 0x000007FE00010000, 0x100000002] [1, 2, 3, 4, 5, 6, 7, 8] = some none := by decide +kernel

theorem test_outOfRange :
    record [] [0x30, 0x001F003F00013FFF, 0x100000001] [] = some (some ⟨.outOfRange, 0x30, 63, 31, 4202236⟩) ∧
    record [] [0x20, 0x0000000800013FFF, 0x100000001] [] = some (some ⟨.outOfRange, 0x20, 8, 0, 4194304⟩) ∧
    record [(0, 0x10)] [0x40, 0x20000, 0x100000001, 0x13FFF] [] = some (some ⟨.outOfRange, 0x40, 0, 0, 4194304⟩) := by
  decide +kernel

theorem test_inputUnderrun :
    record [] [0x20, 0x10000, 0x200000002] [1, 2, 3, 4, 5, 6, 7, 8, 9, 10, 11, 12, 13, 14, 15] =
      some (some ⟨.inputUnderrun, 0x20, 15, 16, 0⟩) ∧
    record [] [0x22, 0x20000, 0x100000003] [0x21] = some (some ⟨.inputUnderrun, 0x22, 1, 2, 0⟩) := by decide +kernel

/-- R257: the command after a fault has no step. -/
theorem test_quiescent : nextOf (step { State.reset with
    fault := some ⟨.illegalOp, 0, 0, 0, 0⟩, commands := [⟨[0x01], []⟩] }) = none := by decide +kernel

/-- V-EMPTY. -/
theorem test_emptyRectangle : answer [] [0x20, 0x0005000500010000, 0x300000000] [] = some [⟨.ok, .nothing⟩] := by
  decide +kernel

/-- R202, R254: the coordinate limit applies to an empty rectangle too (log entry 17). -/
theorem test_emptyRectangle_coordinates :
    record [] [0x20, 0x07FF000000010000, 0x200000000] [] = some (some ⟨.coordOverflow, 0x20, 0, 2049, 0⟩) := by
  decide +kernel

/-- R250: the numeric codes. -/
theorem test_statusCodes : [Status.ok, .unsupported, .faulted .illegalOp, .faulted .coordOverflow,
    .faulted .outOfRange, .faulted .inputUnderrun].map statusByte = [0x00, 0x01, 0x10, 0x11, 0x12, 0x13] := by
  decide +kernel

/-- R162: the masks. -/
theorem test_masks : [bitbltbufLayout, trxposLayout, trxregLayout, trxdirLayout, tex0Layout, clampLayout, tex1Layout,
    tex2Layout].map layoutMask = [0x3F3F3FFF3F3F3FFF, 0x1FFF07FF07FF07FF, 0x00000FFF00000FFF, 0x3,
      0xFFFFFFFFFFFFFFFF, 0x00000FFFFFFFFFFF, 0x00000FFF001803FD, 0xFFFFFFE003F00000] := by decide +kernel

/-- R96. -/
theorem test_fillUpload : fillUpload ⟨0, 0, 0, 0x20, 2, 0x13⟩ ⟨0, 0, 4, 5, 0⟩ ⟨2, 3⟩ =
    .xferUp 0x13 ⟨0x20, 2, 4, 5⟩ ⟨2, 3⟩ := by decide +kernel

/-- R94. -/
theorem test_enumerations : transferDirection ⟨2⟩ = .localToLocal ∧ clutFormat 10 = some .psmct16s ∧
    clutFormat 1 = none ∧ clutLoad 6 = .reserved ∧ wrapMode 3 = .regionRepeat := by decide +kernel


/-! ### Witnesses: for every obligation with hypotheses, a state and operands that meet them all -/

/-- The rectangle of one texel at the origin, in a buffer at base 0. -/
abbrev origin : Surface := ⟨0, 2, 0, 0⟩

/-- The surface whose texel lies in the last block below `CAP`. -/
abbrev lastBlock : Surface := ⟨16383, 1, 0, 0⟩

/-- A surface at the coordinate limit: its texel is the last a transfer may reach. -/
abbrev corner : Surface := ⟨0, 0, 2047, 2047⟩

abbrev oneTexel : Extent := ⟨1, 1⟩

/-- An instance that has not faulted, with one byte of `MEM` set. -/
abbrev ready : State := { State.reset with mem := [(0, 0x10)], input := [1, 2, 3, 4] }

/-- An instance that has faulted, with a command still to come. -/
abbrev faulted : State := { State.reset with
  fault := some ⟨.coordOverflow, 0x20, 2049, 1, 0⟩
  commands := [⟨[0x01], []⟩]
  results := [⟨.faulted .coordOverflow, .nothing⟩] }

/-- The checks of a transfer, run, give the conditions the obligations assume. -/
theorem fits_of_checks {f : Format} {a : Surface} {r : Extent} (h : transferFault 0 a r (texelAccess f a) 0 0 = none) :
    coordsFit a r ∧ surfaceFits f a r :=
  have h := transferFault_eq_none.mp h
  ⟨h.1, texelAccess_inRange.mp h.2.1⟩

theorem clutFits8_of_checks {m : Memory} {a : Surface} {r : Extent} {c : ClutRef}
    (h : transferFault 0 a r (indexAccesses8 m a c) 0 0 = none) : clutFits8 m a r c := fun i j hi hj =>
  (transferFault_eq_none.mp h).2.1 _ (mem_texelsOf.mpr ⟨i, j, hi, hj, rfl⟩) (wordAccess _) (by simp [indexAccesses8])

theorem clutFits4_of_checks {m : Memory} {a : Surface} {r : Extent} {c : ClutRef} {csa : BitVec 5}
    (h : transferFault 0 a r (indexAccesses4 m a c csa) 0 0 = none) : clutFits4 m a r c csa := fun i j hi hj =>
  (transferFault_eq_none.mp h).2.1 _ (mem_texelsOf.mpr ⟨i, j, hi, hj, rfl⟩) (wordAccess _) (by simp [indexAccesses4])

theorem coordsFit_corner : coordsFit corner oneTexel := by unfold coordsFit; decide

/-- ResetIsZeroAndUnfaulted: the first and the last address. -/
theorem witness_reset : 0 < 4194304 ∧ 4194303 < 4194304 := by decide

/-- StepKeepsInvariant: a step that writes `MEM`, and one that faults. -/
theorem witness_stepKeepsInvariant :
    (∃ s t : State, s.Inv ∧ step s = .next t ∧ t.mem = [(0, 0xAB)]) ∧
    (∃ s t : State, s.Inv ∧ step s = .next t ∧ t.fault = some ⟨.illegalOp, 0, 0, 0, 0⟩) := by
  have inv : ∀ c, ({ State.reset with commands := [c] } : State).Inv := fun c =>
    ⟨rfl, by simp, by simp [resultsAgree]⟩
  exact ⟨⟨_, _, inv ⟨[0x21, 0x20000, 0x100000001], [0xAB]⟩, next_of (Option.some_get (by decide +kernel)).symm,
      by decide +kernel⟩,
    ⟨_, _, inv ⟨[0x00], []⟩, next_of (Option.some_get (by decide +kernel)).symm, by decide +kernel⟩⟩

/-- StepRunsTheDecodedCommand. -/
theorem witness_stepRuns : ∃ (s : State) (c : Command) (i : Instr) (rest : List Word64),
    s.commands = [c] ∧ decodeWords c.words = .ok (i, rest) :=
  ⟨{ State.reset with commands := [⟨[0x10, 0x0001000700010000], []⟩] }, _, .addr32 ⟨0, 1, 7, 1⟩, [], rfl,
    by decide +kernel⟩

/-- StepWithoutACommand: nothing issued, a descriptor of one word where two are needed, and one of no word. -/
theorem witness_stepWithoutACommand : State.reset.commands = [] ∧
    (∃ (s : State) (c : Command) (op : Op), s.commands = [c] ∧ s.fault = none ∧
      decodeWords c.words = .error (.truncated op)) ∧
    (∃ (s : State) (c : Command), s.commands = [c] ∧ s.fault = none ∧ c.words = []) :=
  ⟨rfl, ⟨{ State.reset with commands := [⟨[0x10], []⟩] }, _, .addr32, rfl, rfl, by decide +kernel⟩,
    ⟨{ State.reset with commands := [⟨[], []⟩] }, _, rfl, rfl, rfl⟩⟩

/-- FaultedInstanceIsQuiescent. -/
theorem witness_faulted : faulted.fault = some ⟨.coordOverflow, 0x20, 2049, 1, 0⟩ ∧
    faulted.commands = [⟨[0x01], []⟩] := by decide

/-- EveryAcceptedCommandAnswersOnce, ClearZeroesMemory, DirectIndexDownloadsAreUnsupported,
UnsupportedFormatsAnswerUnsupported, DispatchedFaultsNameTheirOwnOp, Tex2FromTex0Projects and the DEC, ENC and ADDR
statements: an instance that has not faulted. -/
theorem witness_ready : ready.fault = none := rfl

/-- FaultingCommandChangesOnlyFault. -/
theorem witness_faulting : ∃ t k, exec (.upload32 ⟨0, 1, 2047, 0⟩ ⟨2, 1⟩) ready = .next t ∧ t.fault = some k :=
  ⟨_, ⟨.coordOverflow, 0x20, 2049, 1, 0⟩, next_of (Option.some_get (by decide +kernel)).symm, by decide +kernel⟩

/-- OnlyClearAndUploadsWriteMemory, OnlyUploadsReadInput, EffectDependsOnMemFaultInput: a download with a result, on
two instances that agree in `MEM`, `FAULT` and input alone. -/
theorem witness_downloadRuns :
    (∃ t, exec (.download32 origin oneTexel) ready = .next t ∧ t.results = [⟨.ok, .bytes [0x10, 0, 0, 0]⟩]) ∧
    opOf (.download32 origin oneTexel) ≠ .clear ∧ opOf (.download32 origin oneTexel) ≠ .upload32 ∧
    opOf (.download32 origin oneTexel) ≠ .upload8 ∧ opOf (.download32 origin oneTexel) ≠ .upload4 ∧
    opOf (.download32 origin oneTexel) ≠ .xferUp ∧
    (∃ s' : State, s' ≠ ready ∧ s'.mem = ready.mem ∧ s'.fault = ready.fault ∧ s'.input = ready.input) :=
  ⟨⟨_, next_of (Option.some_get (by decide +kernel)).symm, by decide +kernel⟩, by decide, by decide, by decide,
    by decide, by decide, ⟨{ ready with results := [⟨.ok, .nothing⟩] }, by decide, rfl, rfl, rfl⟩⟩

/-- InstancesAreIndependent: the second of two instances takes a step. -/
theorem witness_instances : ∃ ss', stepInstance 1 [ready, { ready with commands := [⟨[0x01], []⟩] }] = some ss' ∧
    ss' ≠ [ready, { ready with commands := [⟨[0x01], []⟩] }] :=
  ⟨_, (Option.some_get (by decide +kernel)).symm, by decide +kernel⟩

/-- IllegalOpFaults: both ends of each range of R78. -/
theorem witness_illegalOp : ∀ n ∈ [0x00, 0x02, 0x0F, 0x13, 0x1F, 0x23, 0x2F, 0x33, 0x3F, 0x42, 0x4F, 0x53, 0x7F, 0x88,
    0x8F, 0x98, 0x9F, 0xA1, 0xFF], n = (BitVec.ofNat 64 n).toNat % 256 ∧
    (n = 0 ∨ (2 ≤ n ∧ n ≤ 0x0F) ∨ (0x13 ≤ n ∧ n ≤ 0x1F) ∨ (0x23 ≤ n ∧ n ≤ 0x2F) ∨ (0x33 ≤ n ∧ n ≤ 0x3F) ∨
      (0x42 ≤ n ∧ n ≤ 0x4F) ∨ (0x53 ≤ n ∧ n ≤ 0x7F) ∨ (0x88 ≤ n ∧ n ≤ 0x8F) ∨ (0x98 ≤ n ∧ n ≤ 0x9F) ∨
      0xA1 ≤ n) := by decide +kernel

/-- LegalOpTakesTheWordsOfItsClass: every row, with every other bit of W0 clear and with every other bit set. -/
theorem witness_legalOp : ∀ row ∈ operationRows, row.1 = (BitVec.ofNat 64 row.1).toNat % 256 ∧
    row.1 = (BitVec.ofNat 64 row.1 ||| 0xFFFFFFFFFFFFFF00).toNat % 256 := by decide +kernel

/-- AssemblerRefusesTransferOperandsThatDoNotFit: the largest operands that fit and the smallest that do not, each
kind of psm and alpha, and a line that is assembled. -/
theorem witness_transferOperands : surfaceOperandsFit 16383 63 2047 2047 ∧ ¬ surfaceOperandsFit 0 0 2048 0 ∧
    extentOperandsFit 4095 4095 ∧ ¬ extentOperandsFit 4096 0 ∧ clutOperandsFit 16383 63 ∧ ¬ clutOperandsFit 0 64 ∧
    psmMeant (.num 63) 63 ∧ psmMeant (.psm "PSMT8") 0x13 ∧ (∀ psm, ¬ psmMeant (.num 64) psm) ∧
    alphaMeant [] none ∧ alphaMeant [.alpha 255] (some 255) ∧
    ∃ c, assemble ⟨.upload8, [.num 0, .num 1, .num 0, .num 0, .num 1, .num 1, .bytes [7]]⟩ = some c :=
  ⟨by decide, by decide, by decide, by decide, by decide, by decide, by simp [psmMeant], by simp [psmMeant, psmNames],
    by simp [psmMeant], by simp [alphaMeant], by simp [alphaMeant], _, (Option.some_get (by decide +kernel)).symm⟩

/-- AssemblerRefusesRegisterOperandsThatDoNotFit: the largest value of a field, and one beyond it. -/
theorem witness_registerOperands : recordFits [("RRW", 12), ("RRH", 12)] [("RRH", 4095)] ∧
    ¬ recordFits [("RRW", 12), ("RRH", 12)] [("RRH", 4096)] ∧ ¬ recordFits [("RRW", 12), ("RRH", 12)] [("DBP", 0)] ∧
    fieldMeant [("RRH", 4095)] "RRH" 12 = 4095 ∧ fieldMeant [("RRH", 4095)] "RRW" 12 = 0 := by decide +kernel

/-- TablesFollowTheBitFormulas: a row with the halves swapped and one without. -/
theorem witness_tables : (4 : Nat) = (0 % 8 + (if 2 / 2 % 2 = 2 / 4 % 2 then 0 else 4)) % 8 ∧
    (7 : Nat) = (7 % 8 + (if 0 / 2 % 2 = 0 / 4 % 2 then 0 else 4)) % 8 := by decide

/-- Addr32AlignedAndWithinItsPage: the last texel of the first page, and the last page-aligned base. -/
theorem witness_firstPage : 16352 % 32 = 0 ∧ 63 < 64 ∧ 31 < 32 ∧ 16352 ≤ 16352 := by decide

/-- TranslatorsAreInjective: the last column of the narrowest buffers. -/
theorem witness_injective : 32 % 32 = 0 ∧ 1 ≤ 2 ∧ 127 < 64 * 2 ∧ 127 < 128 * (2 / 2) ∧
    addr32 32 2 127 5 = addr32 32 2 127 5 ∧ addr8 32 2 127 5 = addr8 32 2 127 5 ∧
    addr4 32 2 127 5 = addr4 32 2 127 5 := by decide

/-- PageTexelsReachEveryUnit: the last unit of a page. -/
theorem witness_pageUnits : 16352 % 32 = 0 ∧ 2047 < 2048 ∧ 8191 < 8192 ∧ 16383 < 16384 := by decide

/-- ClearedInstanceIsLikeNew: CLEAR, then a download. -/
theorem witness_cleared : ∃ t u, exec .clear ready = .next t ∧ exec (.download32 origin oneTexel) t = .next u ∧
    u.results = [⟨.ok, .nothing⟩, ⟨.ok, .bytes [0, 0, 0, 0]⟩] :=
  ⟨_, _, next_of (Option.some_get (by decide +kernel)).symm, next_of (Option.some_get (by decide +kernel)).symm,
    by decide +kernel⟩

/-- Upload32WritesItsTexels, UploadThenDownloadRoundTrip, Download32ReturnsItsTexels, XferUpBehavesAsItsUpload and
XferDownBehavesAsDownload32: the last block below `CAP`, and a texel at the coordinate limit; the input is exactly
as long as needed, and one texel is one to one. -/
theorem witness_upload32 : ready.fault = none ∧
    (coordsFit lastBlock oneTexel ∧ surfaceFits .psmct32 lastBlock oneTexel) ∧
    (coordsFit corner oneTexel ∧ surfaceFits .psmct32 corner oneTexel) ∧ 4 * (1 * 1) ≤ ready.input.length ∧
    (∀ i j i' j', i < oneTexel.w.toNat → j < oneTexel.h.toNat → i' < oneTexel.w.toNat → j' < oneTexel.h.toNat →
      texel32 lastBlock (texelAt lastBlock i j) = texel32 lastBlock (texelAt lastBlock i' j') → i = i' ∧ j = j') ∧
    (0 < oneTexel.w.toNat ∧ 0 < oneTexel.h.toNat ∧ ∀ i' j', i' < oneTexel.w.toNat → j' < oneTexel.h.toNat →
      0 * 1 + 0 < j' * 1 + i' →
      texel32 lastBlock (texelAt lastBlock i' j') ≠ texel32 lastBlock (texelAt lastBlock 0 0)) :=
  have one : ∀ i, i < oneTexel.w.toNat → i = 0 := fun i h => Nat.lt_one_iff.mp h
  ⟨rfl, fits_of_checks (by decide +kernel), fits_of_checks (by decide +kernel), by decide,
    fun i j i' j' hi hj hi' hj' _ => ⟨(one i hi).trans (one i' hi').symm, (one j hj).trans (one j' hj').symm⟩,
    by decide, by decide, fun i' j' hi hj h => absurd h (by rw [one i' hi, one j' hj]; decide)⟩

/-- Upload8WritesItsTexels and XferUpBehavesAsItsUpload, with a byte no texel touches. -/
theorem witness_upload8 : (coordsFit origin ⟨2, 1⟩ ∧ surfaceFits .psmt8 origin ⟨2, 1⟩) ∧
    (coordsFit corner oneTexel ∧ surfaceFits .psmt8 corner oneTexel) ∧ 2 * 1 ≤ ready.input.length ∧
    texel8 origin (texelAt origin 0 0) ≠ texel8 origin (texelAt origin 1 0) ∧
    (∀ i, i < 2 → ∀ j, j < 1 → texel8 origin (texelAt origin i j) ≠ 1) :=
  ⟨fits_of_checks (by decide +kernel), fits_of_checks (by decide +kernel), by decide, by decide, by decide⟩

/-- Upload4WritesItsTexels and XferUpBehavesAsItsUpload, with a nibble no texel is at. -/
theorem witness_upload4 : (coordsFit origin ⟨3, 1⟩ ∧ surfaceFits .psmt4 origin ⟨3, 1⟩) ∧
    (coordsFit corner oneTexel ∧ surfaceFits .psmt4 corner oneTexel) ∧ (3 * 1 + 1) / 2 ≤ ready.input.length ∧
    texel4 origin (texelAt origin 0 0) ≠ texel4 origin (texelAt origin 1 0) ∧
    (∀ i, i < 3 → ∀ j, j < 1 → texel4 origin (texelAt origin i j) ≠ 1) :=
  ⟨fits_of_checks (by decide +kernel), fits_of_checks (by decide +kernel), by decide, by decide, by decide⟩

/-- Dlidx8ResolvesItsTexels and XferDlidxBehavesAsItsDownload, for both kinds of alpha: the CLUT cell of index 0x10 in
memory, `o` as the statement computes it. -/
theorem witness_dlidx8 : ready.fault = none ∧ (coordsFit origin oneTexel ∧ surfaceFits .psmt8 origin oneTexel) ∧
    clutFits8 ready.mem origin oneTexel ⟨0x40, 1⟩ ∧
    (0x10 = (readByte ready.mem (texel8 origin (texelAt origin 0 0))).toNat ∧
      0x4100 = addr32 0x40 1 (0x10 % 8 + 8 * (0x10 / 16 % 2)) (2 * (0x10 / 32) + 0x10 / 8 % 2)) :=
  ⟨rfl, fits_of_checks (by decide +kernel), clutFits8_of_checks (by decide +kernel), by decide +kernel⟩

/-- Dlidx4ResolvesItsTexels and XferDlidxBehavesAsItsDownload, with the largest CSA. -/
theorem witness_dlidx4 : ready.fault = none ∧ (coordsFit origin oneTexel ∧ surfaceFits .psmt4 origin oneTexel) ∧
    clutFits4 ready.mem origin oneTexel ⟨0x40, 1⟩ 31 ∧
    (0 = texel4 origin (texelAt origin 0 0) ∧ 0 = (readByte ready.mem (0 / 2)).toNat / 16 ^ (0 % 2) % 16) :=
  ⟨rfl, fits_of_checks (by decide +kernel), clutFits4_of_checks (by decide +kernel), by decide +kernel⟩

/-- UnsupportedFormatsAnswerUnsupported: a recognised and an unrecognised format, and the neighbours of PSMT8. -/
theorem witness_unsupported : ∀ p ∈ ([0x01, 0x12, 0x15, 0x1B, 0x3F] : List (BitVec 6)),
    p.toNat ≠ 0x00 ∧ p.toNat ≠ 0x13 ∧ p.toNat ≠ 0x14 := by decide

/-- CoordOverflowFaults: one texel beyond the limit, in either direction. -/
theorem witness_coordOverflow : 2048 < (2047#11).toNat + (2#12).toNat ∧ 2048 < (2000#11).toNat + (49#12).toNat := by
  decide

/-- OutOfRangeFaults: the block beyond `CAP` that the last base carries into, at the rectangle's first texel, and as
its second with the first in range. -/
theorem witness_outOfRange : coordsFit ⟨16383, 1, 7, 0⟩ ⟨2, 1⟩ ∧
    texel32 ⟨16383, 1, 7, 0⟩ (texelAt ⟨16383, 1, 7, 0⟩ 1 0) = 4194304 ∧
    (∀ y' x', x' < (2#12).toNat → y' < (1#12).toNat → y' * (2#12).toNat + x' < 0 * (2#12).toNat + 1 →
      texel32 ⟨16383, 1, 7, 0⟩ (texelAt ⟨16383, 1, 7, 0⟩ x' y') < 4194304) ∧
    4194304 ≤ texel8 ⟨16383, 2, 16, 0⟩ (texelAt ⟨16383, 2, 16, 0⟩ 0 0) ∧
    4194304 ≤ texel4 ⟨16383, 2, 32, 0⟩ (texelAt ⟨16383, 2, 32, 0⟩ 0 0) / 2 := by
  refine ⟨⟨by decide, by decide⟩, by decide +kernel, fun y' x' hx hy h => ?_, by decide +kernel, by decide +kernel⟩
  have h0 : y' = 0 := Nat.lt_one_iff.mp hy
  subst h0
  have h1 : x' = 0 := by have : (2#12).toNat = 2 := rfl; omega
  subst h1
  decide +kernel

/-- IndexedOutOfRangeFaults: an index at `CAP`, and an index in range with its CLUT cell at `CAP`. -/
theorem witness_indexedOutOfRange : coordsFit origin oneTexel ∧
    4194304 ≤ texel8 ⟨16383, 2, 16, 0⟩ (texelAt ⟨16383, 2, 16, 0⟩ 0 0) ∧
    texel8 origin (texelAt origin 0 0) < 4194304 ∧
    clutCell ⟨16383, 1⟩ (cellOfTexel8 ready.mem origin (texelAt origin 0 0)) = 4194304 ∧
    clutCell ⟨16383, 1⟩ (cellOfTexel4 ready.mem origin 1 (texelAt origin 0 0)) = 4194304 :=
  ⟨⟨by decide, by decide⟩, by decide +kernel, by decide +kernel, by decide +kernel, by decide +kernel⟩

/-- InputUnderrunFaults: one byte less than each format needs. -/
theorem witness_inputUnderrun : (coordsFit origin ⟨9, 1⟩ ∧ surfaceFits .psmct32 origin ⟨9, 1⟩) ∧
    surfaceFits .psmt8 origin ⟨9, 1⟩ ∧ surfaceFits .psmt4 origin ⟨9, 1⟩ ∧
    ([1, 2, 3, 4] : List Byte).length < (9 + 1) / 2 ∧ ([1, 2, 3, 4] : List Byte).length < 9 ∧
    ([1, 2, 3, 4] : List Byte).length < 4 * 9 :=
  ⟨fits_of_checks (by decide +kernel), (fits_of_checks (by decide +kernel)).2,
    (fits_of_checks (by decide +kernel)).2, by decide, by decide, by decide⟩

/-- EmptyRectangleIsANoOp: a rectangle with no column and one with no row, at the last origin. -/
theorem witness_empty : coordsFit ⟨16383, 1, 2047, 2047⟩ ⟨0, 1⟩ ∧ coordsFit ⟨16383, 1, 2047, 2047⟩ ⟨1, 0⟩ ∧
    ((⟨0, 1⟩ : Extent).w.toNat = 0 ∧ (⟨1, 0⟩ : Extent).h.toNat = 0) := by
  unfold coordsFit; decide


end Sys2Proof.Tests
end

section
/-! PROOFS. The command port and one step: what taking and decoding the next transaction gives, and the step that
runs it (00_scope.md R5; 10_state.md R24, R25; 20_memory.md R51). -/

namespace Sys2Proof.Machine

theorem takeCommand_of_commands_cons {s : State} {c : Command} {cs : List Command} (h : s.commands = c :: cs) :
    takeCommand s = some (c, { s with commands := cs, input := c.input }) := by
  simp only [takeCommand, h]

/-- The words left over after the descriptor play no part in the command (log entry 9). -/
theorem decodeCommand_of_decodeWords_ok {c : Command} {i : Instr} {rest : List Word64}
    (h : decodeWords c.words = .ok (i, rest)) : decodeCommand c = .ok i := by
  simp only [decodeCommand, h]

theorem step_of_decodeCommand_ok {s t : State} {c : Command} {i : Instr} (hport : takeCommand s = some (c, t))
    (hdec : decodeCommand c = .ok i) : step s = exec i t := by
  simp only [step, hport, hdec]

/-- Settles O4: the step takes the transaction from the port, decodes it and runs the command on what is left. -/
theorem stepRunsTheDecodedCommand : Obligations.StepRunsTheDecodedCommand := by
  intro s c cs i rest hcommands hwords
  exact step_of_decodeCommand_ok (takeCommand_of_commands_cons hcommands) (decodeCommand_of_decodeWords_ok hwords)

end Sys2Proof.Machine
end

section
/-! PROOFS. What a command does, said once: on an engine that has not faulted it applies an effect told from `MEM`
and the input stream alone; and the step as the command it runs (10_state.md R22 to R26, R51; 60_exceptions.md R257). -/

namespace Sys2Proof.Machine

/-! ### The effect of an accepted command -/

/-- What an accepted command does: it returns `OK` with a result and leaves a memory, it answers `UNSUPPORTED`, or it
takes a fault (R26, R250). -/
inductive Effect where
  | done (m : Memory) (r : Result)
  | unsupported
  | fault (k : FaultRecord)

namespace Effect

/-- The state an effect leaves. -/
def apply (s : State) : Effect → State
  | .done m r => finish { s with mem := m } r
  | .unsupported => answerUnsupported s
  | .fault k => takeFault s k

/-- The response an effect returns (R26). -/
def response : Effect → Response
  | .done _ r => ⟨.ok, r⟩
  | .unsupported => ⟨.unsupported, .bytes []⟩
  | .fault k => ⟨.faulted k.code, .nothing⟩

/-- An effect that keeps the invariant: the memory it leaves is canonical, its fault record is one R252 allows. -/
def Legal : Effect → Prop
  | .done m _ => m.wf = true
  | .unsupported => True
  | .fault k => faultRecordLegal k

/-- The effect of a checked command: the first fault of its checks, or else its own effect (R258). -/
def afterChecks (k : Option FaultRecord) (e : Effect) : Effect :=
  match k with
  | some f => .fault f
  | none => e

@[simp] theorem apply_results (e : Effect) (s : State) : (e.apply s).results = s.results ++ [e.response] := by
  cases e <;> rfl

@[simp] theorem apply_commands (e : Effect) (s : State) : (e.apply s).commands = s.commands := by
  cases e <;> rfl

@[simp] theorem apply_input (e : Effect) (s : State) : (e.apply s).input = s.input := by
  cases e <;> rfl

theorem apply_mem_congr (e : Effect) {s s' : State} (h : s'.mem = s.mem) : (e.apply s').mem = (e.apply s).mem := by
  cases e with
  | done m r => rfl
  | unsupported => exact h
  | fault k => exact h

theorem apply_fault_congr (e : Effect) {s s' : State} (h : s'.fault = s.fault) :
    (e.apply s').fault = (e.apply s).fault := by
  cases e with
  | done m r => exact h
  | unsupported => exact h
  | fault k => rfl

theorem apply_setInput (e : Effect) (s : State) (bs : List Byte) :
    e.apply { s with input := bs } = { e.apply s with input := bs } := by
  cases e <;> rfl

/-- The response reports the fault the engine has just taken, and no other (R257). -/
theorem response_faulted_iff (e : Effect) {s : State} (h : s.fault = none) (c : FaultCode) :
    e.response.status = .faulted c ↔ ∃ k, (e.apply s).fault = some k ∧ k.code = c := by
  cases e <;> simp [apply, response, h]

/-- A legal effect on an unfaulted engine keeps the invariant. -/
theorem apply_inv {e : Effect} {s : State} (he : e.Legal) (hs : s.Inv) (hf : s.fault = none) : (e.apply s).Inv := by
  obtain ⟨hmem, hlegal, hagree⟩ := hs
  have hquiet : ∀ r ∈ s.results, ∀ c, r.status ≠ .faulted c := by simpa [resultsAgree, hf] using hagree
  cases e with
  | done m r =>
    refine ⟨he, hlegal, ?_⟩
    simpa [resultsAgree, apply, hf, or_imp, forall_and] using hquiet
  | unsupported =>
    refine ⟨hmem, hlegal, ?_⟩
    simpa [resultsAgree, apply, hf, or_imp, forall_and] using hquiet
  | fault k =>
    refine ⟨hmem, ?_, s.results, rfl, hquiet⟩
    rintro _ ⟨⟩
    exact he

end Effect

/-! ### Legal faults: what the checks of a transfer report (R252 to R256) -/

theorem coordFault_legal {op : BitVec 8} {a : Surface} {r : Extent} {f : FaultRecord}
    (h : coordFault op a r = some f) : faultRecordLegal f := by
  simp only [coordFault, Option.ite_none_right_eq_some] at h
  obtain ⟨hover, ⟨⟩⟩ := h
  exact ⟨hover, rfl⟩

theorem inputFault_legal {op : BitVec 8} {supplied need : Nat} {f : FaultRecord}
    (h : inputFault op supplied need = some f) : faultRecordLegal f := by
  simp only [inputFault, Option.ite_none_right_eq_some] at h
  obtain ⟨hshort, ⟨⟩⟩ := h
  exact ⟨hshort, rfl⟩

/-- No access straddles `CAP`: one whose last byte is beyond it starts beyond it. -/
def noStraddle (accesses : Texel → List Access) : Prop :=
  ∀ p, ∀ k ∈ accesses p, Config.cap ≤ k.last → Config.cap ≤ k.first

theorem rangeFault_legal {op : BitVec 8} {a : Surface} {r : Extent} {accesses : Texel → List Access}
    {f : FaultRecord} (hacc : noStraddle accesses) (hfit : coordsFit a r)
    (h : rangeFault op accesses (texelsOf a r) = some f) : faultRecordLegal f := by
  obtain ⟨p, hp, k, hk, hlast, rfl⟩ := rangeFault_eq_some h
  obtain ⟨i, j, hi, hj, rfl⟩ := mem_texelsOf.mp hp
  obtain ⟨hx, hy⟩ := hfit
  refine ⟨?_, ?_, hacc _ k hk hlast⟩ <;> simp only [texelAt] <;> omega

theorem transferFault_legal {op : BitVec 8} {a : Surface} {r : Extent} {accesses : Texel → List Access}
    {supplied need : Nat} {f : FaultRecord} (hacc : noStraddle accesses)
    (h : transferFault op a r accesses supplied need = some f) : faultRecordLegal f := by
  unfold transferFault at h
  split at h
  · next hc => exact coordFault_legal (hc.trans h)
  · next hc =>
    split at h
    · next hr => exact rangeFault_legal hacc (coordFault_eq_none.mp hc) (hr.trans h)
    · exact inputFault_legal h

/-- A word at a PSMCT32 offset is aligned to four bytes, as `CAP` is (R135). -/
theorem wordAccess_addr32_beyond {bp bw x y : Nat} (h : Config.cap ≤ (wordAccess (addr32 bp bw x y)).last) :
    Config.cap ≤ (wordAccess (addr32 bp bw x y)).first := by
  simp only [wordAccess, addr32_eq, Config.cap] at h ⊢
  omega

theorem texelAccess_noStraddle (f : Format) (a : Surface) : noStraddle (texelAccess f a) := by
  intro p k hk
  cases f <;> obtain rfl := List.mem_singleton.mp hk
  · exact wordAccess_addr32_beyond
  · exact id
  · exact id

theorem indexAccesses8_noStraddle (m : Memory) (a : Surface) (c : ClutRef) : noStraddle (indexAccesses8 m a c) := by
  intro p k hk
  obtain rfl | rfl : k = _ ∨ k = _ := by simpa [indexAccesses8] using hk
  · exact id
  · exact wordAccess_addr32_beyond

theorem indexAccesses4_noStraddle (m : Memory) (a : Surface) (c : ClutRef) (csa : BitVec 5) :
    noStraddle (indexAccesses4 m a c csa) := by
  intro p k hk
  obtain rfl | rfl : k = _ ∨ k = _ := by simpa [indexAccesses4] using hk
  · exact id
  · exact wordAccess_addr32_beyond

/-! ### The effect of each operation -/

/-- `run` is a command with the effect `e`, told from `MEM` and the input stream: a faulted engine does not accept it
(R22), any other applies the effect, and from canonical memory the effect is legal. -/
structure RunsAs (run : State → Host.Outcome State Fault Refusal) (e : Memory → List Byte → Effect) : Prop where
  run_eq : ∀ s, run s = whenReady s ((e s.mem s.input).apply s)
  legal : ∀ m input, m.wf = true → (e m input).Legal

theorem finish_runsAs (r : Result) : RunsAs (fun s => whenReady s (finish s r)) fun m _ => .done m r :=
  ⟨fun _ => rfl, fun _ _ h => h⟩

theorem execClear_runsAs : RunsAs execClear fun _ _ => .done [] .nothing :=
  ⟨fun _ => rfl, fun _ _ _ => reset_mem_wf⟩

theorem unsupportedTransfer_runsAs : RunsAs unsupportedTransfer fun _ _ => .unsupported :=
  ⟨fun _ => rfl, fun _ _ _ => trivial⟩

theorem checked_apply (s : State) (k : Option FaultRecord) (e : Effect) :
    checked s k (e.apply s) = whenReady s ((e.afterChecks k).apply s) := by
  cases k <;> rfl

theorem checked_runsAs {k : Memory → List Byte → Option FaultRecord} {e : Memory → List Byte → Effect}
    (hk : ∀ m input f, k m input = some f → faultRecordLegal f)
    (he : ∀ m input, m.wf = true → k m input = none → (e m input).Legal) :
    RunsAs (fun s => checked s (k s.mem s.input) ((e s.mem s.input).apply s))
      fun m input => .afterChecks (k m input) (e m input) where
  run_eq s := checked_apply s (k s.mem s.input) (e s.mem s.input)
  legal m input hm := by
    cases h : k m input with
    | none => exact he m input hm h
    | some f => exact hk m input f h

theorem upload_runsAs (f : Format) (op : Op) (a : Surface) (r : Extent) : ∃ e, RunsAs (upload f op a r) e :=
  ⟨_, checked_runsAs
    (k := fun _ input =>
      transferFault (opCode op) a r (texelAccess f a) input.length (inputNeed f (texelCount r)))
    (e := fun m input => .done (storeTexels f a input 0 (texelsOf a r) m) .nothing)
    (fun _ _ _ => transferFault_legal (texelAccess_noStraddle f a))
    fun _ _ hm hnone => storeTexels_wf (transferFault_eq_none.mp hnone).2.1 0 hm⟩

theorem download_runsAs (op : Op) (a : Surface) (r : Extent) :
    ∃ e : Memory → Effect, RunsAs (download op a r) fun m _ => e m :=
  ⟨_, checked_runsAs
    (k := fun _ _ => transferFault (opCode op) a r (texelAccess .psmct32 a) 0 0)
    (e := fun m _ => .done m (.bytes ((texelsOf a r).flatMap fun p => readBytes m (texel32 a p) 4)))
    (fun _ _ _ => transferFault_legal (texelAccess_noStraddle .psmct32 a))
    fun _ _ hm _ => hm⟩

theorem indexedDownload8_runsAs (op : Op) (a : Surface) (r : Extent) (c : ClutRef) (alpha : Option Byte) :
    ∃ e : Memory → Effect, RunsAs (indexedDownload8 op a r c alpha) fun m _ => e m :=
  ⟨_, checked_runsAs
    (k := fun m _ => transferFault (opCode op) a r (indexAccesses8 m a c) 0 0)
    (e := fun m _ =>
      .done m (.bytes ((texelsOf a r).flatMap fun p => clutRead m c alpha (cellOfTexel8 m a p))))
    (fun m _ _ => transferFault_legal (indexAccesses8_noStraddle m a c))
    fun _ _ hm _ => hm⟩

theorem indexedDownload4_runsAs (op : Op) (a : Surface) (r : Extent) (c : ClutRef) (csa : BitVec 5)
    (alpha : Option Byte) :
    ∃ e : Memory → Effect, RunsAs (indexedDownload4 op a r c csa alpha) fun m _ => e m :=
  ⟨_, checked_runsAs
    (k := fun m _ => transferFault (opCode op) a r (indexAccesses4 m a c csa) 0 0)
    (e := fun m _ =>
      .done m (.bytes ((texelsOf a r).flatMap fun p => clutRead m c alpha (cellOfTexel4 m a csa p))))
    (fun m _ _ => transferFault_legal (indexAccesses4_noStraddle m a c csa))
    fun _ _ hm _ => hm⟩

theorem execXferUp_runsAs (psm : BitVec 6) (a : Surface) (r : Extent) : ∃ e, RunsAs (execXferUp psm a r) e := by
  unfold execXferUp
  cases psmFormat psm with
  | none => exact ⟨_, unsupportedTransfer_runsAs⟩
  | some f => exact upload_runsAs f .xferUp a r

theorem execXferDown_runsAs (psm : BitVec 6) (a : Surface) (r : Extent) :
    ∃ e : Memory → Effect, RunsAs (execXferDown psm a r) fun m _ => e m := by
  unfold execXferDown
  rcases psmFormat psm with _ | _ | _ | _
  · exact ⟨_, unsupportedTransfer_runsAs⟩
  · exact download_runsAs .xferDown a r
  · exact ⟨_, unsupportedTransfer_runsAs⟩
  · exact ⟨_, unsupportedTransfer_runsAs⟩

theorem execXferDlidx_runsAs (psm : BitVec 6) (a : Surface) (r : Extent) (c : ClutRef) (csa : BitVec 5)
    (alpha : Option Byte) :
    ∃ e : Memory → Effect, RunsAs (execXferDlidx psm a r c csa alpha) fun m _ => e m := by
  unfold execXferDlidx
  rcases psmFormat psm with _ | _ | _ | _
  · exact ⟨_, unsupportedTransfer_runsAs⟩
  · exact ⟨_, unsupportedTransfer_runsAs⟩
  · exact indexedDownload8_runsAs .xferDlidx a r c alpha
  · exact indexedDownload4_runsAs .xferDlidx a r c csa alpha

/-! ### The effect of each command -/

/-- The commands that take the input stream (R25). -/
def takesInput (i : Instr) : Prop :=
  opOf i = .upload32 ∨ opOf i = .upload8 ∨ opOf i = .upload4 ∨ opOf i = .xferUp

/-- Every command but the uploads has an effect told from `MEM` alone. -/
theorem exec_runsAs_of_not_takesInput {i : Instr} (h : ¬ takesInput i) :
    ∃ e : Memory → Effect, RunsAs (exec i) fun m _ => e m := by
  cases i with
  | clear => exact ⟨_, execClear_runsAs⟩
  | upload32 | upload8 | upload4 | xferUp => simp [takesInput, opOf] at h
  | download32 a r => exact download_runsAs .download32 a r
  | download8 | download4 => exact ⟨_, unsupportedTransfer_runsAs⟩
  | dlidx8 a r c alpha => exact indexedDownload8_runsAs .dlidx8 a r c alpha
  | dlidx4 a r c csa alpha => exact indexedDownload4_runsAs .dlidx4 a r c csa alpha
  | xferDown psm a r => exact execXferDown_runsAs psm a r
  | xferDlidx psm a r c csa alpha => exact execXferDlidx_runsAs psm a r c csa alpha
  | addr32 | addr8 | addr4
  | decBitbltbuf | decTrxpos | decTrxreg | decTrxdir | decTex0 | decClamp | decTex1 | decTex2
  | encBitbltbuf | encTrxpos | encTrxreg | encTrxdir | encTex0 | encClamp | encTex1 | encTex2
  | tex2FromTex0 => exact ⟨_, finish_runsAs _⟩

theorem exec_runsAs_of_takesInput {i : Instr} (h : takesInput i) : ∃ e, RunsAs (exec i) e := by
  cases i with
  | upload32 a r => exact upload_runsAs .psmct32 .upload32 a r
  | upload8 a r => exact upload_runsAs .psmt8 .upload8 a r
  | upload4 a r => exact upload_runsAs .psmt4 .upload4 a r
  | xferUp psm a r => exact execXferUp_runsAs psm a r
  | _ => simp [takesInput, opOf] at h

/-- Every command has an effect told from `MEM` and the input stream (R23). -/
theorem exec_runsAs (i : Instr) : ∃ e, RunsAs (exec i) e := by
  by_cases h : takesInput i
  · exact exec_runsAs_of_takesInput h
  · obtain ⟨e, he⟩ := exec_runsAs_of_not_takesInput h
    exact ⟨_, he⟩

theorem RunsAs.eq_next {run : State → Host.Outcome State Fault Refusal} {e : Memory → List Byte → Effect}
    (h : RunsAs run e) {s t : State} : run s = .next t ↔ s.fault = none ∧ (e s.mem s.input).apply s = t := by
  rw [h.run_eq, whenReady_eq_next]

/-- A faulted engine accepts no command (R22, R257). -/
theorem exec_faulted (i : Instr) {s : State} {k : FaultRecord} (h : s.fault = some k) :
    exec i s = .fault .quiescent := by
  obtain ⟨e, he⟩ := exec_runsAs i
  rw [he.run_eq, whenReady_faulted _ h]

/-- Every command keeps the invariant. -/
theorem exec_inv {i : Instr} {s t : State} (hs : s.Inv) (h : exec i s = .next t) : t.Inv := by
  obtain ⟨e, he⟩ := exec_runsAs i
  obtain ⟨hf, rfl⟩ := he.eq_next.mp h
  exact Effect.apply_inv (he.legal _ _ hs.1) hs hf

/-! ### The step as the command it runs -/

theorem takeCommand_of_commands_nil {s : State} (h : s.commands = []) : takeCommand s = none := by
  simp only [takeCommand, h]

theorem step_of_commands_nil {s : State} (h : s.commands = []) : step s = .next s := by
  simp only [step, takeCommand_of_commands_nil h, idle]

theorem step_of_decodeCommand_error {s t : State} {c : Command} {e : DecodeError}
    (hport : takeCommand s = some (c, t)) (hdec : decodeCommand c = .error e) : step s = rejectDescriptor e t := by
  simp only [step, hport, hdec]

theorem rejectDescriptor_faulted (e : DecodeError) {s : State} {k : FaultRecord} (h : s.fault = some k) :
    rejectDescriptor e s = .fault .quiescent := by
  simp only [rejectDescriptor, h]

/-- A rejected descriptor has a next state only where its `OP` is illegal, and then it takes that fault (R253). -/
theorem rejectDescriptor_eq_next {e : DecodeError} {s t : State} :
    rejectDescriptor e s = .next t ↔
      s.fault = none ∧ ∃ code, e = .illegalOp code ∧ takeFault s (illegalOpFault code) = t := by
  cases h : s.fault <;> cases e <;> simp [rejectDescriptor, h]

/-- The decoder calls an `OP` illegal only where the operation map has no row for it (R78). -/
theorem opOfCode_of_decodeCommand_illegalOp {c : Command} {code : BitVec 8}
    (h : decodeCommand c = .error (.illegalOp code)) : opOfCode code = none := by
  unfold decodeCommand decodeWords at h
  split at h
  · cases h
  · next e he =>
    cases h
    split at he
    · cases he
    · split at he
      · next hnone => cases he; exact hnone
      · split at he <;> cases he

theorem illegalOpFault_legal {code : BitVec 8} (h : opOfCode code = none) :
    faultRecordLegal (illegalOpFault code) := ⟨h, rfl, rfl, rfl⟩

/-- What a step with a next state can be: it holds, it runs the decoded command, or it takes the fault ILLEGAL_OP. -/
theorem step_eq_next {s t : State} (h : step s = .next t) :
    (s.commands = [] ∧ t = s) ∨
    ∃ c cs, s.commands = c :: cs ∧
      ((∃ i, decodeCommand c = .ok i ∧ exec i { s with commands := cs, input := c.input } = .next t) ∨
       ∃ code, decodeCommand c = .error (.illegalOp code) ∧ s.fault = none ∧
         takeFault { s with commands := cs, input := c.input } (illegalOpFault code) = t) := by
  cases hcs : s.commands with
  | nil =>
    rw [step_of_commands_nil hcs] at h
    cases h
    exact .inl ⟨rfl, rfl⟩
  | cons c cs =>
    refine .inr ⟨c, cs, rfl, ?_⟩
    have hport := takeCommand_of_commands_cons hcs
    cases hdec : decodeCommand c with
    | ok i => exact .inl ⟨i, rfl, step_of_decodeCommand_ok hport hdec ▸ h⟩
    | error e =>
      rw [step_of_decodeCommand_error hport hdec, rejectDescriptor_eq_next] at h
      obtain ⟨hf, code, rfl, rfl⟩ := h
      exact .inr ⟨code, rfl, hf, rfl⟩

/-- The invariant says nothing of the ports of commands and input. -/
theorem inv_of_ports {s : State} (h : s.Inv) (cs : List Command) (input : List Byte) :
    ({ s with commands := cs, input := input } : State).Inv := h

/-! ### The obligations on steps and commands -/

/-- Settles O3: a step either holds the state or applies a legal effect to an unfaulted engine. -/
theorem stepKeepsInvariant : Obligations.StepKeepsInvariant := by
  intro s t hs hstep
  obtain ⟨-, rfl⟩ | ⟨c, cs, -, ⟨i, -, hexec⟩ | ⟨code, hdec, hf, rfl⟩⟩ := step_eq_next hstep
  · exact hs
  · exact exec_inv (inv_of_ports hs cs c.input) hexec
  · have hlegal : (Effect.fault (illegalOpFault code)).Legal :=
      illegalOpFault_legal (opOfCode_of_decodeCommand_illegalOp hdec)
    exact Effect.apply_inv hlegal (inv_of_ports hs cs c.input) hf

/-- A step of a faulted engine that has been offered a command stops, whatever the command (R257). -/
theorem step_faulted {s : State} {k : FaultRecord} (h : s.fault = some k) {c : Command} {cs : List Command}
    (hcs : s.commands = c :: cs) : step s = .fault .quiescent := by
  have hport := takeCommand_of_commands_cons hcs
  cases hdec : decodeCommand c with
  | ok i => exact (step_of_decodeCommand_ok hport hdec).trans (exec_faulted i h)
  | error e => exact (step_of_decodeCommand_error hport hdec).trans (rejectDescriptor_faulted e h)

/-- Settles O6: every command is guarded by `whenReady`, so a step with a next state is one without a command. -/
theorem faultedInstanceIsQuiescent : Obligations.FaultedInstanceIsQuiescent := by
  intro s k h
  refine ⟨fun i => exec_faulted i h, fun c cs => step_faulted h, fun t hstep => ?_⟩
  cases hcs : s.commands with
  | nil =>
    rw [step_of_commands_nil hcs] at hstep
    cases hstep
    rfl
  | cons c cs =>
    rw [step_faulted h hcs] at hstep
    cases hstep

/-- Settles O7: the response is that of the command's effect. -/
theorem everyAcceptedCommandAnswersOnce : Obligations.EveryAcceptedCommandAnswersOnce := by
  intro i s hf
  obtain ⟨e, he⟩ := exec_runsAs i
  exact ⟨_, (e s.mem s.input).response, he.eq_next.mpr ⟨hf, rfl⟩, Effect.apply_results _ s,
    Effect.apply_commands _ s, Effect.apply_input _ s, Effect.response_faulted_iff _ hf⟩

/-- Settles O10: both runs apply the one effect that `MEM` and the input stream give. -/
theorem effectDependsOnMemFaultInput : Obligations.EffectDependsOnMemFaultInput := by
  intro i s t s' hmem hfault hinput hexec
  obtain ⟨e, he⟩ := exec_runsAs i
  obtain ⟨hf, rfl⟩ := he.eq_next.mp hexec
  have hexec' : exec i s' = .next ((e s.mem s.input).apply s') :=
    he.eq_next.mpr ⟨hfault.trans hf, by rw [hmem, hinput]⟩
  exact ⟨_, (e s.mem s.input).response, hexec', Effect.apply_mem_congr _ hmem, Effect.apply_fault_congr _ hfault,
    Effect.apply_results _ s, Effect.apply_results _ s'⟩

/-- Settles O11: the effect of any other command is told from `MEM` alone. -/
theorem onlyUploadsReadInput : Obligations.OnlyUploadsReadInput := by
  intro i s t bs hexec h32 h8 h4 hxfer
  have hno : ¬ takesInput i := by simp [takesInput, h32, h8, h4, hxfer]
  obtain ⟨e, he⟩ := exec_runsAs_of_not_takesInput hno
  obtain ⟨hf, rfl⟩ := he.eq_next.mp hexec
  exact he.eq_next.mpr ⟨hf, Effect.apply_setInput _ s bs⟩

/-! ### Instances and construction -/

/-- A step of an engine replaces that engine by its own next state, and no other (R27). -/
theorem stepInstance_eq_some {k : Nat} {ss ss' : List State} :
    stepInstance k ss = some ss' ↔ ∃ s t, ss[k]? = some s ∧ step s = .next t ∧ ss.set k t = ss' := by
  unfold stepInstance
  cases ss[k]? with
  | none => simp
  | some s => cases h : step s <;> simp [h]

/-- Settles O12: the list of instances differs at the one that stepped alone. -/
theorem instancesAreIndependent : Obligations.InstancesAreIndependent := by
  intro k ss ss' h
  obtain ⟨s, t, hs, hstep, rfl⟩ := stepInstance_eq_some.mp h
  have hk : k < ss.length := (List.getElem?_eq_some_iff.mp hs).1
  exact ⟨List.length_set, ⟨s, t, hs, hstep, List.getElem?_set_self hk⟩,
    fun j hj => List.getElem?_set_ne (Ne.symm hj)⟩

/-- Settles O1: no byte is listed, and an unlisted byte reads as zero. -/
theorem resetIsZeroAndUnfaulted : Obligations.ResetIsZeroAndUnfaulted :=
  ⟨fun a _ => readByte_nil a, reset_fault⟩

/-- Settles O2: nothing is listed, no fault is recorded and nothing has been returned. -/
theorem resetMeetsInvariant : Obligations.ResetMeetsInvariant := by
  refine ⟨reset_mem_wf, ?_, ?_⟩
  · simp
  · simp [resultsAgree]

end Sys2Proof.Machine
end

section
/-! PROOFS. Written DEC, ENC and PRJ commands: the fields of a record are read back from the word that carries them,
and the word from the descriptor (30_encoding.md R75, R80, R83 to R90, R160, R161). -/

namespace Sys2Proof.Machine

/-! ### The fields of a generically encoded record -/

/-- The fields of a layout lie in 64 bits and rise: each lies above those before it (R83 to R90). -/
abbrev risingLayout (fs : Layout) : Prop :=
  (fs.Pairwise fun f g => f.hi < g.lo) ∧ ∀ f ∈ fs, f.lo ≤ f.hi ∧ f.hi < 64

/-- The sum of `value << lo` over a field list (R161). -/
def placedSum (value : Field → Nat) (fs : Layout) : Nat := (fs.map fun f => value f * 2 ^ f.lo).sum

theorem placedSum_cons (value : Field → Nat) (f : Field) (fs : Layout) :
    placedSum value (f :: fs) = value f * 2 ^ f.lo + placedSum value fs := by
  simp [placedSum]

theorem two_pow_dvd_placedSum {value : Field → Nat} {fs : Layout} {n : Nat} (h : ∀ f ∈ fs, n ≤ f.lo) :
    2 ^ n ∣ placedSum value fs := by
  refine List.dvd_sum fun x hx => ?_
  obtain ⟨f, hf, rfl⟩ := List.mem_map.mp hx
  exact Dvd.dvd.mul_left (Nat.pow_dvd_pow 2 (h f hf)) _

/-- What lies below a divisor of both numbers plays no part in the quotient. -/
theorem add_mul_div_mul_of_lt {a n : Nat} (q d : Nat) (h : a < n) : (a + n * q) / (n * d) = n * q / (n * d) := by
  have hn : 0 < n := by omega
  rw [← Nat.div_div_eq_div_mul, Nat.add_mul_div_left _ _ hn, Nat.div_eq_of_lt h, Nat.zero_add,
    Nat.mul_div_mul_left _ _ hn]

/-- A field of a rising layout is read back from the sum: the fields below it reach no bit of it, and those above it
are multiples of the power beyond it. -/
theorem placedSum_div_mod {value : Field → Nat} {fs : Layout} (hrise : risingLayout fs)
    (hfit : ∀ f ∈ fs, value f < 2 ^ fieldWidth f) {g : Field} (hg : g ∈ fs) :
    placedSum value fs / 2 ^ g.lo % 2 ^ fieldWidth g = value g := by
  induction fs with
  | nil => cases hg
  | cons f fs ih =>
    obtain ⟨hpair, horder⟩ := hrise
    obtain ⟨hbelow, hpair⟩ := List.pairwise_cons.mp hpair
    obtain ⟨hf, horder⟩ := List.forall_mem_cons.mp horder
    obtain ⟨hvalue, hfit⟩ := List.forall_mem_cons.mp hfit
    have htop : f.lo + fieldWidth f = f.hi + 1 := by unfold fieldWidth; omega
    obtain ⟨q, hq⟩ : 2 ^ (f.lo + fieldWidth f) ∣ placedSum value fs :=
      two_pow_dvd_placedSum fun g hg => htop ▸ hbelow g hg
    rw [placedSum_cons]
    rcases List.mem_cons.mp hg with rfl | hg
    · rw [hq, Nat.pow_add, Nat.mul_comm (value g), Nat.mul_assoc, ← Nat.mul_add,
        Nat.mul_div_cancel_left _ (Nat.two_pow_pos _), Nat.add_mul_mod_self_left, Nat.mod_eq_of_lt hvalue]
    · obtain ⟨d, hd⟩ : 2 ^ (f.lo + fieldWidth f) ∣ 2 ^ g.lo := Nat.pow_dvd_pow 2 (htop ▸ hbelow g hg)
      have hlow : value f * 2 ^ f.lo < 2 ^ (f.lo + fieldWidth f) := by
        rw [Nat.pow_add, Nat.mul_comm]
        exact Nat.mul_lt_mul_of_pos_left hvalue (Nat.two_pow_pos _)
      rw [hq, hd, add_mul_div_mul_of_lt q d hlow, ← hq, ← hd]
      exact ih ⟨hpair, horder⟩ hfit hg

theorem extract_ofNat (n lo : Nat) {w : Nat} (h : lo + w ≤ 64) :
    (BitVec.ofNat 64 n).extractLsb' lo w = BitVec.ofNat w (n / 2 ^ lo) := by
  ext i hi
  have hlt : lo + i < 64 := by omega
  simp [-Nat.reducePow, BitVec.getElem_eq_testBit_toNat, Nat.testBit_mod_two_pow, Nat.testBit_div_two_pow, hlt, hi,
    Nat.add_comm]

/-- The word of a record that fits holds in each field of the register the value the record gives it (R160, R161). -/
theorem extract_layoutEncode {fs : Layout} {vs : List (String × Nat)} (hrise : risingLayout fs)
    (hnames : (fs.map Field.name).Nodup) (h : recordFits (fs.map fun f => (f.name, fieldWidth f)) vs) :
    ∀ f ∈ fs, (layoutEncode fs vs).extractLsb' f.lo (fieldWidth f) = fieldMeant vs f.name (fieldWidth f) := by
  have hvalue : ∀ f ∈ fs, (fieldMeant vs f.name (fieldWidth f)).toNat = (vs.lookup f.name).getD 0 := by
    intro f hf
    refine toNat_fieldMeant h fun p hp hname => ?_
    obtain ⟨g, hg, rfl⟩ := List.mem_map.mp hp
    rw [List.inj_on_of_nodup_map hnames hg hf hname]
  have hfit : ∀ f ∈ fs, (vs.lookup f.name).getD 0 < 2 ^ fieldWidth f := fun f hf => hvalue f hf ▸ BitVec.isLt _
  intro f hf
  have hwidth : f.lo + fieldWidth f ≤ 64 := by
    have := hrise.2 f hf
    unfold fieldWidth
    omega
  apply BitVec.eq_of_toNat_eq
  rw [layoutEncode, extract_ofNat _ _ hwidth, BitVec.toNat_ofNat, hvalue f hf]
  exact placedSum_div_mod (value := fun f => (vs.lookup f.name).getD 0) hrise hfit hf

/-! ### The eight registers: the record meant, and decode after encode -/

section
variable {vs : List (String × Nat)}

theorem decodeBitbltbuf_layoutEncode (h : recordFits (bitbltbufLayout.map fun f => (f.name, fieldWidth f)) vs) :
    decodeBitbltbuf (layoutEncode bitbltbufLayout vs) =
      ⟨fieldMeant vs "SBP" 14, fieldMeant vs "SBW" 6, fieldMeant vs "SPSM" 6, fieldMeant vs "DBP" 14,
        fieldMeant vs "DBW" 6, fieldMeant vs "DPSM" 6⟩ := by
  have fields := extract_layoutEncode (fs := bitbltbufLayout) (by decide) (by decide) h
  simp only [bitbltbufLayout, List.forall_mem_cons, fieldWidth] at fields
  simp [decodeBitbltbuf, fields, bitbltbufLayout]

theorem decodeTrxpos_layoutEncode (h : recordFits (trxposLayout.map fun f => (f.name, fieldWidth f)) vs) :
    decodeTrxpos (layoutEncode trxposLayout vs) =
      ⟨fieldMeant vs "SSAX" 11, fieldMeant vs "SSAY" 11, fieldMeant vs "DSAX" 11, fieldMeant vs "DSAY" 11,
        fieldMeant vs "DIR" 2⟩ := by
  have fields := extract_layoutEncode (fs := trxposLayout) (by decide) (by decide) h
  simp only [trxposLayout, List.forall_mem_cons, fieldWidth] at fields
  simp [decodeTrxpos, fields, trxposLayout]

theorem decodeTrxreg_layoutEncode (h : recordFits (trxregLayout.map fun f => (f.name, fieldWidth f)) vs) :
    decodeTrxreg (layoutEncode trxregLayout vs) =
      ⟨fieldMeant vs "RRW" 12, fieldMeant vs "RRH" 12⟩ := by
  have fields := extract_layoutEncode (fs := trxregLayout) (by decide) (by decide) h
  simp only [trxregLayout, List.forall_mem_cons, fieldWidth] at fields
  simp [decodeTrxreg, fields, trxregLayout]

theorem decodeTrxdir_layoutEncode (h : recordFits (trxdirLayout.map fun f => (f.name, fieldWidth f)) vs) :
    decodeTrxdir (layoutEncode trxdirLayout vs) =
      ⟨fieldMeant vs "XDIR" 2⟩ := by
  have fields := extract_layoutEncode (fs := trxdirLayout) (by decide) (by decide) h
  simp only [trxdirLayout, List.forall_mem_cons, fieldWidth] at fields
  simp [decodeTrxdir, fields, trxdirLayout]

theorem decodeTex0_layoutEncode (h : recordFits (tex0Layout.map fun f => (f.name, fieldWidth f)) vs) :
    decodeTex0 (layoutEncode tex0Layout vs) =
      ⟨fieldMeant vs "TBP0" 14, fieldMeant vs "TBW" 6, fieldMeant vs "PSM" 6, fieldMeant vs "TW" 4,
        fieldMeant vs "TH" 4, fieldMeant vs "TCC" 1, fieldMeant vs "TFX" 2, fieldMeant vs "CBP" 14,
        fieldMeant vs "CPSM" 4, fieldMeant vs "CSM" 1, fieldMeant vs "CSA" 5, fieldMeant vs "CLD" 3⟩ := by
  have fields := extract_layoutEncode (fs := tex0Layout) (by decide) (by decide) h
  simp only [tex0Layout, List.forall_mem_cons, fieldWidth] at fields
  simp [decodeTex0, fields, tex0Layout]

theorem decodeClamp_layoutEncode (h : recordFits (clampLayout.map fun f => (f.name, fieldWidth f)) vs) :
    decodeClamp (layoutEncode clampLayout vs) =
      ⟨fieldMeant vs "WMS" 2, fieldMeant vs "WMT" 2, fieldMeant vs "MINU" 10, fieldMeant vs "MAXU" 10,
        fieldMeant vs "MINV" 10, fieldMeant vs "MAXV" 10⟩ := by
  have fields := extract_layoutEncode (fs := clampLayout) (by decide) (by decide) h
  simp only [clampLayout, List.forall_mem_cons, fieldWidth] at fields
  simp [decodeClamp, fields, clampLayout]

theorem decodeTex1_layoutEncode (h : recordFits (tex1Layout.map fun f => (f.name, fieldWidth f)) vs) :
    decodeTex1 (layoutEncode tex1Layout vs) =
      ⟨fieldMeant vs "LCM" 1, fieldMeant vs "MXL" 3, fieldMeant vs "MMAG" 1, fieldMeant vs "MMIN" 3,
        fieldMeant vs "MTBA" 1, fieldMeant vs "L" 2, fieldMeant vs "K" 12⟩ := by
  have fields := extract_layoutEncode (fs := tex1Layout) (by decide) (by decide) h
  simp only [tex1Layout, List.forall_mem_cons, fieldWidth] at fields
  simp [decodeTex1, fields, tex1Layout]

theorem decodeTex2_layoutEncode (h : recordFits (tex2Layout.map fun f => (f.name, fieldWidth f)) vs) :
    decodeTex2 (layoutEncode tex2Layout vs) =
      ⟨fieldMeant vs "PSM" 6, fieldMeant vs "CBP" 14, fieldMeant vs "CPSM" 4, fieldMeant vs "CSM" 1,
        fieldMeant vs "CSA" 5, fieldMeant vs "CLD" 3⟩ := by
  have fields := extract_layoutEncode (fs := tex2Layout) (by decide) (by decide) h
  simp only [tex2Layout, List.forall_mem_cons, fieldWidth] at fields
  simp [decodeTex2, fields, tex2Layout]

end

@[simp] theorem decodeBitbltbuf_encodeBitbltbuf (f : Bitbltbuf) : decodeBitbltbuf (encodeBitbltbuf f) = f := by
  simp (disch := decide) [decodeBitbltbuf, encodeBitbltbuf, extract_place_same, extract_place_disjoint]

@[simp] theorem decodeTrxpos_encodeTrxpos (f : Trxpos) : decodeTrxpos (encodeTrxpos f) = f := by
  simp (disch := decide) [decodeTrxpos, encodeTrxpos, extract_place_same, extract_place_disjoint]

@[simp] theorem decodeTrxreg_encodeTrxreg (f : Trxreg) : decodeTrxreg (encodeTrxreg f) = f := by
  simp (disch := decide) [decodeTrxreg, encodeTrxreg, extract_place_same, extract_place_disjoint]

@[simp] theorem decodeTrxdir_encodeTrxdir (f : Trxdir) : decodeTrxdir (encodeTrxdir f) = f := by
  simp (disch := decide) [decodeTrxdir, encodeTrxdir, extract_place_same]

@[simp] theorem decodeTex0_encodeTex0 (f : Tex0) : decodeTex0 (encodeTex0 f) = f := by
  simp (disch := decide) [decodeTex0, encodeTex0, extract_place_same, extract_place_disjoint]

@[simp] theorem decodeClamp_encodeClamp (f : Clamp) : decodeClamp (encodeClamp f) = f := by
  simp (disch := decide) [decodeClamp, encodeClamp, extract_place_same, extract_place_disjoint]

@[simp] theorem decodeTex1_encodeTex1 (f : Tex1) : decodeTex1 (encodeTex1 f) = f := by
  simp (disch := decide) [decodeTex1, encodeTex1, extract_place_same, extract_place_disjoint]

@[simp] theorem decodeTex2_encodeTex2 (f : Tex2) : decodeTex2 (encodeTex2 f) = f := by
  simp (disch := decide) [decodeTex2, encodeTex2, extract_place_same, extract_place_disjoint]

/-! ### The written commands -/

/-- A command of two words is decoded from its own descriptor where its second word gives it back (R70). -/
theorem decodeCommand_encode {i : Instr} {w : Word64} (input : List Byte) (henc : encode i = [plainWord (opOf i), w])
    (hlen : opWords (opOf i) = 2) (hback : instrOfWords (opOf i) (plainWord (opOf i)) w 0 0 = i) :
    decodeCommand ⟨encode i, input⟩ = .ok i := by
  simpa [henc, decodeCommand, decodeWords, opField_plainWord, opOfCode_opCode, hlen] using hback

theorem assemblesTo_of_assembleInstr {op : Op} {operands : List Operand} {fits : Prop} {i : Instr}
    {input : List Byte} (hfit : fits → assembleInstr ⟨op, operands⟩ = some (i, input))
    (hunfit : ¬ fits → assembleInstr ⟨op, operands⟩ = none) (hdec : decodeCommand ⟨encode i, input⟩ = .ok i) :
    assemblesTo op operands fits i input :=
  ⟨fun h => ⟨_, by rw [assemble, hfit h]; rfl, hdec, rfl⟩, fun h => by rw [assemble, hunfit h]; rfl⟩

/-- A DEC line is assembled exactly when its word has 64 bits. -/
theorem assemblesTo_dec {op : Op} {mk : Word64 → Instr} {v : Nat}
    (hop : assembleInstr ⟨op, [.num v]⟩ = assembleDec mk [.num v])
    (hdec : ∀ rw, decodeCommand ⟨encode (mk rw), []⟩ = .ok (mk rw)) :
    assemblesTo op [.num v] (v < 2 ^ 64) (mk (BitVec.ofNat 64 v)) [] := by
  have hword : assembleInstr ⟨op, [.num v]⟩ = (bitsOperand 64 v).map fun rw => (mk rw, []) := hop
  rw [bitsOperand_eq] at hword
  refine assemblesTo_of_assembleInstr (fun h => ?_) (fun h => ?_) (hdec _)
  · rw [hword, if_pos h]; rfl
  · rw [hword, if_neg h]; rfl

/-- An ENC or PRJ line is assembled exactly when its record fits its register, and then to the record meant. -/
theorem assemblesTo_record {op : Op} {fs : Layout} {mk : Word64 → Instr} {vs : List (String × Nat)} {i : Instr}
    (hop : assembleInstr ⟨op, [.fields vs]⟩ = assembleRecord fs mk [.fields vs])
    (hmeant : recordFits (fs.map fun f => (f.name, fieldWidth f)) vs → mk (layoutEncode fs vs) = i)
    (hdec : decodeCommand ⟨encode i, []⟩ = .ok i) :
    assemblesTo op [.fields vs] (recordFits (fs.map fun f => (f.name, fieldWidth f)) vs) i [] := by
  rw [assembleRecord, recordOperand_eq] at hop
  refine assemblesTo_of_assembleInstr (fun h => ?_) (fun h => ?_) hdec
  · rw [hop, if_pos h, ← hmeant h]; rfl
  · rw [hop, if_neg h]; rfl

/-- Settles O55: a line is assembled where its record fits, and the fields of the word it gives are those written. -/
theorem assemblerRefusesRegisterOperandsThatDoNotFit :
    Obligations.AssemblerRefusesRegisterOperandsThatDoNotFit := by
  refine ⟨?_, ?_⟩
  · rintro v _ rfl
    refine ⟨?_, ?_, ?_, ?_, ?_, ?_, ?_, ?_⟩ <;>
      exact assemblesTo_dec rfl fun rw => decodeCommand_encode [] rfl rfl rfl
  · rintro vs _ _ _ rfl rfl rfl
    refine ⟨?_, ?_, ?_, ?_, ?_, ?_, ?_, ?_, ?_⟩
    · exact assemblesTo_record rfl (fun h => congrArg Instr.encBitbltbuf (decodeBitbltbuf_layoutEncode h))
        (decodeCommand_encode [] rfl rfl (congrArg Instr.encBitbltbuf (decodeBitbltbuf_encodeBitbltbuf _)))
    · exact assemblesTo_record rfl (fun h => congrArg Instr.encTrxpos (decodeTrxpos_layoutEncode h))
        (decodeCommand_encode [] rfl rfl (congrArg Instr.encTrxpos (decodeTrxpos_encodeTrxpos _)))
    · exact assemblesTo_record rfl (fun h => congrArg Instr.encTrxreg (decodeTrxreg_layoutEncode h))
        (decodeCommand_encode [] rfl rfl (congrArg Instr.encTrxreg (decodeTrxreg_encodeTrxreg _)))
    · exact assemblesTo_record rfl (fun h => congrArg Instr.encTrxdir (decodeTrxdir_layoutEncode h))
        (decodeCommand_encode [] rfl rfl (congrArg Instr.encTrxdir (decodeTrxdir_encodeTrxdir _)))
    · exact assemblesTo_record rfl (fun h => congrArg Instr.encTex0 (decodeTex0_layoutEncode h))
        (decodeCommand_encode [] rfl rfl (congrArg Instr.encTex0 (decodeTex0_encodeTex0 _)))
    · exact assemblesTo_record rfl (fun h => congrArg Instr.encClamp (decodeClamp_layoutEncode h))
        (decodeCommand_encode [] rfl rfl (congrArg Instr.encClamp (decodeClamp_encodeClamp _)))
    · exact assemblesTo_record rfl (fun h => congrArg Instr.encTex1 (decodeTex1_layoutEncode h))
        (decodeCommand_encode [] rfl rfl (congrArg Instr.encTex1 (decodeTex1_encodeTex1 _)))
    · exact assemblesTo_record rfl (fun h => congrArg Instr.encTex2 (decodeTex2_layoutEncode h))
        (decodeCommand_encode [] rfl rfl (congrArg Instr.encTex2 (decodeTex2_encodeTex2 _)))
    · exact assemblesTo_record rfl (fun h => congrArg Instr.tex2FromTex0 (decodeTex0_layoutEncode h))
        (decodeCommand_encode [] rfl rfl (congrArg Instr.tex2FromTex0 (decodeTex0_encodeTex0 _)))

end Sys2Proof.Machine
end

section
/-! PROOFS. The texels of a rectangle by column and row, and lists made of pieces of one length (42_transfer.md R200,
R201, R205). -/

namespace Sys2Proof.Machine

section
variable {α β : Type} {g : α → List β} {n : Nat}

theorem length_flatMap_of_length (hg : ∀ x, (g x).length = n) (xs : List α) : (xs.flatMap g).length = n * xs.length := by
  simp [List.length_flatMap, hg, Nat.mul_comm]

/-- Piece number `t` of a list made of pieces of `n` elements begins at `n * t`. -/
theorem getElem?_flatMap_of_length (hg : ∀ x, (g x).length = n) {xs : List α} {t b : Nat} {x : α}
    (hx : xs[t]? = some x) (hb : b < n) : (xs.flatMap g)[n * t + b]? = (g x)[b]? := by
  induction xs generalizing t with
  | nil => cases hx
  | cons y ys ih =>
    rw [List.flatMap_cons]
    cases t with
    | zero =>
      obtain rfl : y = x := Option.some.inj hx
      rw [Nat.mul_zero, Nat.zero_add, List.getElem?_append_left (by rw [hg]; exact hb)]
    | succ t =>
      have hidx : n * (t + 1) + b = (g y).length + (n * t + b) := by rw [hg, Nat.mul_succ]; omega
      rw [hidx, List.getElem?_append_right (Nat.le_add_right _ _), Nat.add_sub_cancel_left, ih hx]

end

section
variable {a : Surface} {r : Extent} {i j : Nat}

theorem texelIndex_lt (hi : i < r.w.toNat) (hj : j < r.h.toNat) : j * r.w.toNat + i < texelCount r :=
  calc j * r.w.toNat + i < (j + 1) * r.w.toNat := by rw [Nat.succ_mul]; omega
    _ ≤ r.h.toNat * r.w.toNat := Nat.mul_le_mul_right _ hj
    _ = texelCount r := Nat.mul_comm _ _

/-- The texel in column `i` and row `j` is number `j * W + i` in texel order (R200, R201). -/
theorem getElem?_texelsOf_texelAt (a : Surface) (hi : i < r.w.toNat) (hj : j < r.h.toNat) :
    (texelsOf a r)[j * r.w.toNat + i]? = some (texelAt a i j) := by
  have hrow : (j * r.w.toNat + i) / r.w.toNat = j := by
    rw [Nat.mul_comm, Nat.mul_add_div (by omega), Nat.div_eq_of_lt hi, Nat.add_zero]
  rw [getElem?_texelsOf a r (texelIndex_lt hi hj), Nat.mul_add_mod_of_lt hi, hrow]

/-- The texels of a rectangle around the one in column `i` and row `j`: those after it in texel order have larger
numbers (R201, R205). -/
theorem texelsOf_split (a : Surface) (hi : i < r.w.toNat) (hj : j < r.h.toNat) :
    ∃ before after, texelsOf a r = before ++ texelAt a i j :: after ∧ before.length = j * r.w.toNat + i ∧
      ∀ p ∈ after, ∃ i' j', i' < r.w.toNat ∧ j' < r.h.toNat ∧ j * r.w.toNat + i < j' * r.w.toNat + i' ∧
        p = texelAt a i' j' := by
  obtain ⟨hlt, hat⟩ := List.getElem?_eq_some_iff.mp (getElem?_texelsOf_texelAt a hi hj)
  refine ⟨(texelsOf a r).take (j * r.w.toNat + i), (texelsOf a r).drop (j * r.w.toNat + i + 1), ?_,
    List.length_take_of_le hlt.le, fun p hp => ?_⟩
  · rw [← hat, List.getElem_cons_drop, List.take_append_drop]
  · obtain ⟨k, hk⟩ := List.mem_iff_getElem?.mp hp
    rw [List.getElem?_drop] at hk
    have hcount : j * r.w.toNat + i + 1 + k < texelCount r :=
      length_texelsOf a r ▸ (List.getElem?_eq_some_iff.mp hk).1
    rw [getElem?_texelsOf a r hcount] at hk
    have hw : 0 < r.w.toNat := by omega
    refine ⟨_, _, Nat.mod_lt _ hw, Nat.div_lt_of_lt_mul hcount, ?_, (Option.some.inj hk).symm⟩
    rw [Nat.div_add_mod']
    omega

end

end Sys2Proof.Machine
end

section
/-! PROOFS. The descriptor of a command, as words and as bytes: what the decoder reads back from the words the encoder
writes, and from the bytes that carry them (30_encoding.md R70 to R77; 20_memory.md R46). -/

namespace Sys2Proof

open Machine

/-! ### The descriptor words, field by field -/

@[simp] theorem surfaceOfWord_surfaceWord (a : Surface) : surfaceOfWord (surfaceWord a) = a := by
  simp (disch := decide) [surfaceOfWord, surfaceWord, extract_place_same, extract_place_disjoint]

@[simp] theorem extentOfWord_extentWord (r : Extent) : extentOfWord (extentWord r) = r := by
  simp (disch := decide) [extentOfWord, extentWord, extract_place_same, extract_place_disjoint]

@[simp] theorem clutOfWord_clutWord (c : ClutRef) : clutOfWord (clutWord c) = c := by
  simp (disch := decide) [clutOfWord, clutWord, extract_place_same, extract_place_disjoint]

section
variable (op : Op) (psm : BitVec 6) (csa : BitVec 5) (alpha : Option Byte)

@[simp] theorem psmField_commandWord : psmField (commandWord op psm csa alpha) = psm := by
  simp (disch := decide) [psmField, commandWord, extract_place_same, extract_place_disjoint]

@[simp] theorem csaField_commandWord : csaField (commandWord op psm csa alpha) = csa := by
  simp (disch := decide) [csaField, commandWord, extract_place_same, extract_place_disjoint]

/-- AEN tells whether an alpha is given, and AOV is read only then (R71). -/
@[simp] theorem alphaField_commandWord : alphaField (commandWord op psm csa alpha) = alpha := by
  have haen : (commandWord op psm csa alpha).extractLsb' 16 1 = BitVec.ofBool alpha.isSome := by
    simp (disch := decide) [commandWord, extract_place_same, extract_place_disjoint]
  have haov : (commandWord op psm csa alpha).extractLsb' 24 8 = alpha.getD 0 := by
    simp (disch := decide) [commandWord, extract_place_same, extract_place_disjoint]
  cases alpha <;> simp [alphaField, haen, haov]

end

/-! ### The descriptor as words -/

/-- A descriptor is W0 with the `OP` of the command, and the further words that `OP` fixes (R70, R71). -/
theorem encode_eq_cons (i : Instr) :
    ∃ w0 ws, encode i = w0 :: ws ∧ opField w0 = opCode (opOf i) ∧ ws.length + 1 = opWords (opOf i) := by
  cases i <;> exact ⟨_, _, rfl, opField_commandWord .., rfl⟩

/-- The decoder takes the words that `OP` fixes, and leaves the rest (R70). -/
theorem decodeWords_of_opField {op : Op} {w0 : Word64} {ws : List Word64} (hop : opField w0 = opCode op)
    (hlen : opWords op ≤ ws.length + 1) :
    decodeWords (w0 :: ws) =
      .ok (instrOfWords op w0 (ws.getD 0 0) (ws.getD 1 0) (ws.getD 2 0), ws.drop (opWords op - 1)) := by
  simp only [decodeWords, hop, opOfCode_opCode, if_neg (Nat.not_lt.mpr hlen)]

/-- The operands of a command are read back from its words, whatever words follow (R71 to R75). -/
theorem instrOfWords_encode {i : Instr} {w0 : Word64} {ws : List Word64} (henc : encode i = w0 :: ws)
    (rest : List Word64) :
    instrOfWords (opOf i) w0 ((ws ++ rest).getD 0 0) ((ws ++ rest).getD 1 0) ((ws ++ rest).getD 2 0) = i := by
  cases i <;> obtain ⟨rfl, rfl⟩ := List.cons.inj henc
  case clear => rfl
  case decBitbltbuf | decTrxpos | decTrxreg | decTrxdir | decTex0 | decClamp | decTex1 | decTex2 => rfl
  -- every other command's words hold fields, which are read back one by one
  all_goals simp [opOf, instrOfWords]

/-- Decoding the words of a command gives it back, and the words after it (R70 to R77). -/
theorem decodeWords_encode_append (i : Instr) (rest : List Word64) :
    decodeWords (encode i ++ rest) = .ok (i, rest) := by
  obtain ⟨w0, ws, henc, hop, hlen⟩ := encode_eq_cons i
  have hdrop : (ws ++ rest).drop (opWords (opOf i) - 1) = rest := List.drop_left' (by omega)
  have hwords : opWords (opOf i) ≤ (ws ++ rest).length + 1 := by
    rw [List.length_append]; omega
  rw [henc, List.cons_append, decodeWords_of_opField hop hwords, instrOfWords_encode henc, hdrop]

/-! ### The descriptor as bytes -/

theorem length_bytesOfWord (w : Word64) : (bytesOfWord w).length = 8 := rfl

theorem wordsOfBytes_bytesOfWord_append (w : Word64) (bs : List Byte) :
    wordsOfBytes (bytesOfWord w ++ bs) = w :: wordsOfBytes bs :=
  congrArg (· :: wordsOfBytes bs) (wordOfBytes_bytesOfWord w)

/-- The words of a stream that begins with the bytes of `ws` begin with `ws` (R46). -/
theorem wordsOfBytes_flatMap_append (ws : List Word64) (bs : List Byte) :
    wordsOfBytes (ws.flatMap bytesOfWord ++ bs) = ws ++ wordsOfBytes bs := by
  induction ws with
  | nil => rfl
  | cons w ws ih =>
    rw [List.flatMap_cons, List.append_assoc, wordsOfBytes_bytesOfWord_append, ih, List.cons_append]

theorem length_encodeBytes (i : Instr) : (encodeBytes i).length = 8 * opWords (opOf i) := by
  obtain ⟨w0, ws, henc, -, hlen⟩ := encode_eq_cons i
  rw [encodeBytes, length_flatMap_of_length length_bytesOfWord, henc, List.length_cons, hlen]

/-- Settles O16: the words of the stream are those of the descriptor and the words the rest carries, and the
descriptor's bytes are as many as its `OP` fixes. -/
theorem decodeInvertsEncodeOnBytes : Obligations.DecodeInvertsEncodeOnBytes := by
  intro i rest
  have hwords : decodeWords (wordsOfBytes (encodeBytes i ++ rest)) = .ok (i, wordsOfBytes rest) := by
    rw [encodeBytes, wordsOfBytes_flatMap_append, decodeWords_encode_append]
  have hdrop : (encodeBytes i ++ rest).drop (8 * opWords (opOf i)) = rest := List.drop_left' (length_encodeBytes i)
  simp only [decodeBytes, hwords, hdrop]

end Sys2Proof
end

section
/-! PROOFS. Uploads: a transfer that passes its checks completes, and what the writes of UPLOAD4 leave at each nibble
(20_memory.md R48; 42_transfer.md R202 to R209, R216). -/

namespace Sys2Proof.Machine

/-- An upload whose coordinates, surface and input meet their limits completes (R207, R208, R214 to R216). -/
theorem upload_completes {f : Format} {a : Surface} {r : Extent} {s : State} (op : Op) (hready : s.fault = none)
    (hcoords : coordsFit a r) (hfits : surfaceFits f a r) (hneed : inputNeed f (texelCount r) ≤ s.input.length) :
    upload f op a r s =
      .next (finish { s with mem := storeTexels f a s.input 0 (texelsOf a r) s.mem } .nothing) :=
  checked_eq_next.mpr
    ⟨hready, .inl ⟨transferFault_eq_none.mpr ⟨hcoords, texelAccess_inRange.mpr hfits, hneed⟩, rfl⟩⟩

section
variable {a : Surface} {input : List Byte} {q : Nat}

theorem readNibble_storeTexels_ne {ps : List Texel} (h : ∀ p ∈ ps, texel4 a p ≠ q) (t : Nat) (m : Memory) :
    readNibble (storeTexels .psmt4 a input t ps m) q = readNibble m q := by
  induction ps generalizing t m with
  | nil => rfl
  | cons p ps ih =>
    obtain ⟨hp, hps⟩ := List.forall_mem_cons.mp h
    rw [storeTexels, ih hps, storeTexel, readNibble_writeNibble, if_neg hp.symm]

/-- The last texel at a nibble offset leaves its input nibble there (R205, R209). -/
theorem readNibble_storeTexels_split {before after : List Texel} {p : Texel}
    (h : ∀ p' ∈ after, texel4 a p' ≠ texel4 a p) (t : Nat) (m : Memory) :
    readNibble (storeTexels .psmt4 a input t (before ++ p :: after) m) (texel4 a p) =
      inputNibble input (t + before.length) := by
  rw [storeTexels_append, storeTexels, readNibble_storeTexels_ne h, storeTexel, readNibble_writeNibble, if_pos rfl]

/-- An upload of a rectangle leaves at the offset of a texel, where no later one has the same, its input nibble
(R205, R209). -/
theorem readNibble_storeTexels_texelAt {r : Extent} {i j : Nat} (hi : i < r.w.toNat) (hj : j < r.h.toNat)
    (hlast : ∀ i' j', i' < r.w.toNat → j' < r.h.toNat → j * r.w.toNat + i < j' * r.w.toNat + i' →
      texel4 a (texelAt a i' j') ≠ texel4 a (texelAt a i j)) (m : Memory) :
    readNibble (storeTexels .psmt4 a input 0 (texelsOf a r) m) (texel4 a (texelAt a i j)) =
      inputNibble input (j * r.w.toNat + i) := by
  obtain ⟨before, after, hsplit, hlen, hafter⟩ := texelsOf_split a hi hj
  have hlater : ∀ p ∈ after, texel4 a p ≠ texel4 a (texelAt a i j) := by
    intro p hp
    obtain ⟨i', j', hi', hj', hlt, rfl⟩ := hafter p hp
    exact hlast i' j' hi' hj' hlt
  rw [hsplit, readNibble_storeTexels_split hlater, Nat.zero_add, hlen]

/-- Texel `t` takes nibble `t` of the input stream, the low nibble of each byte first (R209). -/
theorem toNat_inputNibble {t : Nat} {b : Byte} (h : input[t / 2]? = some b) :
    (inputNibble input t).toNat = b.toNat / 16 ^ (t % 2) % 16 := by
  have hbyte : inputByte input (t >>> 1) = b := by
    rw [Nat.shiftRight_one, inputByte, List.getD_eq_getElem?_getD, h, Option.getD_some]
  rw [inputNibble, hbyte, Nat.and_one_is_mod, BitVec.extractLsb'_toNat, BitVec.toNat_ushiftRight,
    Nat.shiftRight_zero, Nat.shiftRight_eq_div_pow, Nat.pow_mul]

end

/-- Settles O32: the writes after a texel's own leave its nibble alone, and every write is a write of one nibble. -/
theorem upload4WritesItsTexels : Obligations.Upload4WritesItsTexels := by
  rintro a r s w h rfl rfl hready hcoords hfits hinput
  have hneed : inputNeed .psmt4 (texelCount r) ≤ s.input.length := by
    rwa [inputNeed, texelCount, Nat.shiftRight_one]
  refine ⟨_, upload_completes .upload4 hready hcoords hfits hneed, ?_, ?_, ?_⟩
  · intro i j hi hj hlast
    have hbyte : (j * r.w.toNat + i) / 2 < s.input.length := by
      have : j * r.w.toNat + i < r.w.toNat * r.h.toNat := texelIndex_lt hi hj
      omega
    have hin := List.getElem?_eq_getElem hbyte
    exact ⟨_, hin, readNibble_storeTexels_texelAt hi hj hlast s.mem ▸ toNat_inputNibble hin⟩
  · intro q hq
    refine readNibble_storeTexels_ne (fun p hp => ?_) 0 s.mem
    obtain ⟨i, j, hi, hj, rfl⟩ := mem_texelsOf.mp hp
    exact hq i j hi hj
  · intro addr haddr
    refine readByte_storeTexels_ne (fun p hp => ?_) 0 s.mem
    obtain ⟨i, j, hi, hj, rfl⟩ := mem_texelsOf.mp hp
    exact (haddr i j hi hj).symm

end Sys2Proof.Machine
end

section
/-! PROOFS. Indexed downloads: the CLUT cell of a 4-bit index, the color read from a cell, and what DLIDX4 returns
(20_memory.md R48; 42_transfer.md R204, R211, R212, R221, R225). -/

namespace Sys2Proof.Machine

/-! ### Nibbles, CLUT cells and colors as numbers -/

/-- A nibble is the lane of its byte that the parity of its address names (R48). -/
theorem toNat_readNibble (m : Memory) (q : Nat) :
    (readNibble m q).toNat = (readByte m (q / 2)).toNat / 16 ^ (q % 2) % 16 := by
  rw [readNibble, Nat.and_one_is_mod, Nat.shiftRight_one]
  rcases Nat.mod_two_eq_zero_or_one q with h | h <;> simp [h, Nat.shiftRight_eq_div_pow]

theorem toNat_ite_getLsbD {w : Nat} (v : BitVec w) (k n : Nat) :
    (if v.getLsbD k then n else 0) = n * (v.toNat / 2 ^ k % 2) := by
  rw [← BitVec.testBit_toNat, Nat.testBit_eq_decide_div_mod_eq]
  rcases Nat.mod_two_eq_zero_or_one (v.toNat / 2 ^ k) with h | h <;> simp [h]

/-- The CLUT cell of a 4-bit index, moved by the whole of CSA (R211). -/
theorem clut4_eq (i : Nibble) (csa : BitVec 5) :
    clut4 i csa = (i.toNat % 8 + 8 * (csa.toNat % 2), i.toNat / 8 + 2 * (csa.toNat / 2)) := by
  have hi : i.toNat / 8 % 2 = i.toNat / 8 := by omega
  have hmask : i.toNat &&& 7 = i.toNat % 8 := and_mask i.toNat 3
  rw [clut4, toNat_ite_getLsbD, toNat_ite_getLsbD, hmask, Nat.shiftRight_one, Nat.shiftLeft_eq]
  simp [hi, Nat.mul_comm]

/-- The sampled alpha is doubled, or 255 where its sign bit is set (R212). -/
theorem toNat_alphaOut_none (v : Byte) :
    (alphaOut none v).toNat = if 128 ≤ v.toNat then 255 else 2 * v.toNat := by
  have hsign : v.getLsbD 7 = decide (128 ≤ v.toNat) := by
    rw [← BitVec.testBit_toNat, Nat.testBit_eq_decide_div_mod_eq, decide_eq_decide]
    omega
  simp only [alphaOut, hsign, decide_eq_true_eq]
  split
  · rfl
  · rw [BitVec.toNat_mul]
    exact Nat.mod_eq_of_lt (a := 2 * v.toNat) (by omega)

/-- A stream that holds at `n` the four bytes read from a CLUT cell holds there R, G and B as stored, and the alpha
override or else the sampled alpha through ALPHA (R212, R225). -/
theorem clutRead_color {m : Memory} {c : ClutRef} {alpha : Option Byte} {p : Texel} {out : List Byte} {n o : Nat}
    (hout : ∀ b, b < 4 → out[n + b]? = (clutRead m c alpha p)[b]?) (ho : clutCell c p = o) :
    (∀ b, b < 3 → out[n + b]? = some (readByte m (o + b))) ∧
    (∀ v, alpha = some v → out[n + 3]? = some v) ∧
    (alpha = none → ∃ v, out[n + 3]? = some v ∧
      v.toNat = (if 128 ≤ (readByte m (o + 3)).toNat then 255 else 2 * (readByte m (o + 3)).toNat)) := by
  subst ho
  refine ⟨fun b hb => ?_, ?_, ?_⟩
  · rw [hout b (by omega)]
    interval_cases b <;> rfl
  · rintro v rfl
    exact hout 3 (by omega)
  · rintro rfl
    exact ⟨_, hout 3 (by omega), toNat_alphaOut_none _⟩

/-! ### DLIDX4 -/

/-- The index and CLUT accesses of DLIDX4 are in range where its surface and its CLUT cells lie below `CAP` (R204). -/
theorem indexAccesses4_inRange {m : Memory} {a : Surface} {r : Extent} {c : ClutRef} {csa : BitVec 5}
    (hfits : surfaceFits .psmt4 a r) (hclut : clutFits4 m a r c csa) :
    ∀ p ∈ texelsOf a r, ∀ k ∈ indexAccesses4 m a c csa p, k.last < Config.cap := by
  intro p hp k hk
  obtain ⟨i, j, hi, hj, rfl⟩ := mem_texelsOf.mp hp
  obtain rfl | rfl : k = _ ∨ k = _ := by simpa [indexAccesses4] using hk
  · exact hfits i j hi hj
  · exact hclut i j hi hj

/-- A 4-bit indexed download whose coordinates and accesses meet their limits completes (R221). -/
theorem indexedDownload4_completes {a : Surface} {r : Extent} {c : ClutRef} {csa : BitVec 5} {s : State} (op : Op)
    (alpha : Option Byte) (hready : s.fault = none) (hcoords : coordsFit a r) (hfits : surfaceFits .psmt4 a r)
    (hclut : clutFits4 s.mem a r c csa) :
    indexedDownload4 op a r c csa alpha s =
      .next (finish s (.bytes ((texelsOf a r).flatMap fun p => clutRead s.mem c alpha (cellOfTexel4 s.mem a csa p)))) :=
  checked_eq_next.mpr
    ⟨hready, .inl ⟨transferFault_eq_none.mpr ⟨hcoords, indexAccesses4_inRange hfits hclut, Nat.le_refl 0⟩, rfl⟩⟩

/-- Settles O37: texel number `t` gives bytes `4t` to `4t + 3`, the color of the CLUT cell its index names. -/
theorem dlidx4ResolvesItsTexels : Obligations.Dlidx4ResolvesItsTexels := by
  rintro a r c csa alpha s w h rfl rfl hready hcoords hfits hclut
  have hlen : ∀ p, (clutRead s.mem c alpha (cellOfTexel4 s.mem a csa p)).length = 4 := fun _ => rfl
  refine ⟨_, indexedDownload4_completes .dlidx4 alpha hready hcoords hfits hclut, ?_, ?_⟩
  · rw [length_flatMap_of_length hlen, length_texelsOf, texelCount, Nat.mul_assoc]
  · rintro i j q k o hi hj rfl rfl rfl
    refine clutRead_color (p := cellOfTexel4 s.mem a csa (texelAt a i j))
      (fun b hb => getElem?_flatMap_of_length hlen (getElem?_texelsOf_texelAt a hi hj) hb) ?_
    rw [cellOfTexel4, clut4_eq, toNat_readNibble, clutCell]

end Sys2Proof.Machine
end

section
/-! PROOFS. The decoder on any words: what an `OP` outside the operation map gives, how many words each `OP` takes, and
which bits of a descriptor are looked at (30_encoding.md R70 to R78, R81). -/

namespace Sys2Proof

open Machine

/-- Settles O15: the decoder takes the words the encoder wrote, and reads each field back from its own bits. -/
theorem decodeInvertsEncode : Obligations.DecodeInvertsEncode := decodeWords_encode_append

/-- Settles O18: the words of each worked encoding are those the encoder writes for its command. -/
theorem workedEncodingsDecode : Obligations.WorkedEncodingsDecode :=
  ⟨decodeWords_encode_append (.upload32 ⟨0, 1, 0, 0⟩ ⟨2, 2⟩) [],
    decodeWords_encode_append (.dlidx4 ⟨0x20, 2, 0, 0⟩ ⟨1, 1⟩ ⟨0x40, 1⟩ 3 (some 128)) [],
    decodeWords_encode_append (.addr32 ⟨0, 1, 7, 1⟩) [],
    decodeWords_encode_append (.xferUp 0x13 ⟨0, 2, 0, 0⟩ ⟨2, 1⟩) [],
    decodeWords_encode_append (.decTex0 0x2300080599404000#64) [],
    decodeWords_encode_append .clear []⟩

/-! ### The `OP` of a descriptor -/

theorem toNat_opField (w0 : Word64) : (opField w0).toNat = w0.toNat % 256 := by
  simp [opField]

/-- With an illegal `OP` nothing after W0 is looked at (R78). -/
theorem decodeWords_of_opOfCode_none {w0 : Word64} (h : opOfCode (opField w0) = none) (ws : List Word64) :
    decodeWords (w0 :: ws) = .error (.illegalOp (opField w0)) := by
  simp only [decodeWords, h]

/-- A descriptor that ends before the words its `OP` fixes is no command (R70; log entry 8). -/
theorem decodeWords_truncated {op : Op} {w0 : Word64} {ws : List Word64} (hop : opField w0 = opCode op)
    (hlen : ws.length + 1 < opWords op) : decodeWords (w0 :: ws) = .error (.truncated op) := by
  simp only [decodeWords, hop, opOfCode_opCode, if_pos hlen]

theorem opOf_instrOfWords (op : Op) (w0 w1 w2 w3 : Word64) : opOf (instrOfWords op w0 w1 w2 w3) = op := by
  cases op <;> rfl

theorem decodeCommand_of_opOfCode_none {c : Command} {w0 : Word64} {ws : List Word64} (hwords : c.words = w0 :: ws)
    (h : opOfCode (opField w0) = none) : decodeCommand c = .error (.illegalOp (opField w0)) := by
  simp only [decodeCommand, hwords, decodeWords_of_opOfCode_none h]

/-- The operation map has no row in the ranges of R78. -/
theorem opOfCode_eq_none {n : Nat} {code : BitVec 8} (hcode : code.toNat = n)
    (h : n = 0 ∨ (2 ≤ n ∧ n ≤ 0x0F) ∨ (0x13 ≤ n ∧ n ≤ 0x1F) ∨ (0x23 ≤ n ∧ n ≤ 0x2F) ∨ (0x33 ≤ n ∧ n ≤ 0x3F) ∨
      (0x42 ≤ n ∧ n ≤ 0x4F) ∨ (0x53 ≤ n ∧ n ≤ 0x7F) ∨ (0x88 ≤ n ∧ n ≤ 0x8F) ∨ (0x98 ≤ n ∧ n ≤ 0x9F) ∨ 0xA1 ≤ n) :
    opOfCode code = none := by
  subst hcode
  revert code
  decide +kernel

/-- Settles O13: the decoder rejects the descriptor at its `OP`, and the rejection takes the fault. -/
theorem illegalOpFaults : Obligations.IllegalOpFaults := by
  rintro s c cs w0 ws _ hready hcommands hwords rfl hrange
  have hcode : opField w0 = BitVec.ofNat 8 (w0.toNat % 256) := by
    rw [← toNat_opField, BitVec.ofNat_toNat, BitVec.setWidth_eq]
  have hdec := decodeCommand_of_opOfCode_none hwords (opOfCode_eq_none (toNat_opField w0) hrange)
  rw [step_of_decodeCommand_error (takeCommand_of_commands_cons hcommands) hdec, hcode]
  exact rejectDescriptor_eq_next.mpr ⟨hready, _, rfl, rfl⟩

/-- Each row of R77 has the code and the number of words that the decoder goes by. -/
theorem opCode_opWords_of_operationRow {n k : Nat} {op : Op} (h : (n, op, k) ∈ operationRows) :
    (opCode op).toNat = n ∧ opWords op = k + 1 := by
  have hrows : ∀ row ∈ operationRows, (opCode row.2.1).toNat = row.1 ∧ opWords row.2.1 = row.2.2 + 1 := by decide
  exact hrows _ h

/-- Settles O14: the row's `OP` names its operation, and the decoder compares the words at hand with the row's. -/
theorem legalOpTakesTheWordsOfItsClass : Obligations.LegalOpTakesTheWordsOfItsClass := by
  rintro _ k op w0 ws hrow rfl
  obtain ⟨hcode, hwords⟩ := opCode_opWords_of_operationRow hrow
  have hop : opField w0 = opCode op := BitVec.eq_of_toNat_eq ((toNat_opField w0).trans hcode.symm)
  refine ⟨fun hlen => ?_, fun hlen => decodeWords_truncated hop (by omega)⟩
  have hdec := decodeWords_of_opField hop (ws := ws) (by omega)
  rw [hwords, Nat.add_sub_cancel] at hdec
  exact ⟨_, hdec, opOf_instrOfWords ..⟩

/-! ### The bits a command uses (R76) -/

/-- A mask that keeps every bit of a field keeps the field. -/
theorem extract_and_of_allOnes (w m : Word64) {s n : Nat} (h : m.extractLsb' s n = BitVec.allOnes n) :
    (w &&& m).extractLsb' s n = w.extractLsb' s n := by
  rw [BitVec.extractLsb'_and, h, BitVec.and_allOnes]

/-- The bits of W0 that the command with `OP` value `n` uses (R71). -/
def usedBitsW0 (n : Nat) : Word64 :=
  if n = 0x40 then 0xFF0100FF#64 else if n = 0x41 then 0x1FFF0100FF#64
  else if n = 0x50 ∨ n = 0x51 then 0x3FFF#64 else if n = 0x52 then 0x1FFF013FFF#64 else 0xFF#64

/-- Every command uses all of OP. -/
theorem opField_and_usedBits (w0 : Word64) (n : Nat) : opField (w0 &&& usedBitsW0 n) = opField w0 := by
  unfold usedBitsW0
  split_ifs <;> exact extract_and_of_allOnes _ _ (by decide)

/-- An operation's operands lie in the bits its descriptor words use: of W1 the surface's fields, where it holds a
surface, of W2 and W3 the fields of the rectangle and the CLUT reference (R71 to R74, R76). -/
theorem instrOfWords_usedBits (op : Op) (w0 w1 w2 w3 : Word64) :
    instrOfWords op (w0 &&& usedBitsW0 (opCode op).toNat)
      (if (opCode op).toNat < 0x80 then w1 &&& 0x07FF07FF003F3FFF#64 else w1)
      (w2 &&& 0x00000FFF00000FFF#64) (w3 &&& 0x00000000003F3FFF#64) = instrOfWords op w0 w1 w2 w3 := by
  have hsurface : surfaceOfWord (w1 &&& 0x07FF07FF003F3FFF#64) = surfaceOfWord w1 := by
    simp (disch := decide) only [surfaceOfWord, extract_and_of_allOnes]
  have hextent : extentOfWord (w2 &&& 0x00000FFF00000FFF#64) = extentOfWord w2 := by
    simp (disch := decide) only [extentOfWord, extract_and_of_allOnes]
  have hclut : clutOfWord (w3 &&& 0x00000000003F3FFF#64) = clutOfWord w3 := by
    simp (disch := decide) only [clutOfWord, extract_and_of_allOnes]
  cases op
  case dlidx8 | dlidx4 | xferUp | xferDown | xferDlidx =>
    simp (disch := decide) [instrOfWords, opCode, opTable, usedBitsW0, hsurface, hextent, hclut,
      psmField, csaField, alphaField, extract_and_of_allOnes]
  -- every other operation reads nothing of W0 but OP, and none of them a CLUT reference
  all_goals simp [instrOfWords, opCode, opTable, hsurface, hextent]

/-- An `OP` value names only the operation whose code it is (R77). -/
theorem eq_opCode_of_opOfCode {code : BitVec 8} {op : Op} : opOfCode code = some op → code = opCode op := by
  revert code op
  decide +kernel

theorem opWords_le_four (op : Op) : opWords op ≤ 4 := by
  cases op <;> decide

/-- Four words are enough for every operation (R70). -/
theorem decodeCommand_of_fourWords {op : Op} {w0 : Word64} (hop : opField w0 = opCode op) (w1 w2 w3 : Word64)
    (input : List Byte) : decodeCommand ⟨[w0, w1, w2, w3], input⟩ = .ok (instrOfWords op w0 w1 w2 w3) :=
  decodeCommand_of_decodeWords_ok (decodeWords_of_opField hop (opWords_le_four op))

/-- Settles O17: OP is read from bits the mask keeps, and so is every operand of the operation it names. -/
theorem reservedAndUnusedBitsAreIgnored : Obligations.ReservedAndUnusedBitsAreIgnored := by
  rintro w0 w1 w2 w3 input _ rfl
  change _ = decodeCommand ⟨(w0 &&& usedBitsW0 (w0.toNat % 256)) :: _, input⟩
  have hkeep := opField_and_usedBits w0 (w0.toNat % 256)
  cases hop : opOfCode (opField w0) with
  | none =>
    have hop' : opOfCode (opField (w0 &&& usedBitsW0 (w0.toNat % 256))) = none := by rw [hkeep, hop]
    rw [decodeCommand_of_opOfCode_none rfl hop, decodeCommand_of_opOfCode_none rfl hop', hkeep]
  | some op =>
    have hcode := eq_opCode_of_opOfCode hop
    have hn : w0.toNat % 256 = (opCode op).toNat := by rw [← hcode, toNat_opField]
    rw [decodeCommand_of_fourWords hcode, decodeCommand_of_fourWords (hkeep.trans hcode), hn, instrOfWords_usedBits]

end Sys2Proof
end

section
/-! PROOFS. The formats a dispatched transfer knows, and the answer to every other (30_encoding.md R92, R93;
60_exceptions.md R251). -/

namespace Sys2Proof.Machine

/-- The formats with transfer semantics have one code each (R92, R93). -/
theorem psmFormat_eq (p : BitVec 6) :
    psmFormat p =
      if p.toNat = 0x00 then some .psmct32 else if p.toNat = 0x13 then some .psmt8
      else if p.toNat = 0x14 then some .psmt4 else none := by
  revert p
  decide +kernel

theorem unsupportedTransfer_ready {s : State} (h : s.fault = none) :
    unsupportedTransfer s = .next (answerUnsupported s) := whenReady_ready _ h

/-- Settles O41: a transfer whose PSM names no format it dispatches to is answered before any check. -/
theorem unsupportedFormatsAnswerUnsupported : Obligations.UnsupportedFormatsAnswerUnsupported := by
  rintro psm a r c csa alpha s _ hready rfl
  have hanswer := unsupportedTransfer_ready hready
  refine ⟨fun h0 h13 h14 => ?_, fun h0 => ?_, fun h13 h14 => ?_⟩
  · have hnone : psmFormat psm = none := by rw [psmFormat_eq, if_neg h0, if_neg h13, if_neg h14]
    simp only [exec, execXferUp, hnone]
    exact hanswer
  · have hother : psmFormat psm ≠ some .psmct32 := by
      rw [psmFormat_eq, if_neg h0]
      split_ifs <;> decide
    simp only [exec, execXferDown]
    split
    · next h => exact absurd h hother
    all_goals exact hanswer
  · have h8 : psmFormat psm ≠ some .psmt8 := by
      rw [psmFormat_eq, if_neg h13]
      split_ifs <;> decide
    have h4 : psmFormat psm ≠ some .psmt4 := by
      rw [psmFormat_eq, if_neg h14]
      split_ifs <;> decide
    simp only [exec, execXferDlidx]
    split
    · exact hanswer
    · next h => exact absurd h h8
    · next h => exact absurd h h4
    · exact hanswer

end Sys2Proof.Machine
end

section
/-! PROOFS. The typed codec of each register against the generic one over its field list (30_encoding.md R82;
41_register_codec.md R160, R161). -/

namespace Sys2Proof.Machine

/-- The generic decode reads each field from the bits its layout gives it (R160). -/
theorem layoutDecode_values (fs : Layout) (v : Word64) :
    (layoutDecode fs v).map Prod.snd = fs.map fun f => (v.extractLsb' f.lo (fieldWidth f)).toNat := by
  simp only [layoutDecode, List.map_map, toNat_extract]
  rfl

/-- Settles O54: both decodes read the same bits, field by field. -/
theorem typedDecodeIsTheGenericDecode : Obligations.TypedDecodeIsTheGenericDecode := by
  intro v
  simp only [layoutDecode_values]
  exact ⟨rfl, rfl, rfl, rfl, rfl, rfl, rfl, rfl⟩

/-- Fields placed one above another: the OR over a rising layout is the sum, each field clear of the word so far. -/
theorem toNat_orFields {value : ∀ f : Field, BitVec (fieldWidth f)} {fs : Layout} (hrise : risingLayout fs)
    {x : Word64} (hx : ∀ f ∈ fs, x.toNat < 2 ^ f.lo) :
    (fs.foldl (fun w f => w ||| place (value f) f.lo) x).toNat =
      x.toNat + placedSum (fun f => (value f).toNat) fs := by
  induction fs generalizing x with
  | nil => rfl
  | cons f fs ih =>
    obtain ⟨hpair, horder⟩ := hrise
    obtain ⟨habove, hpair⟩ := List.pairwise_cons.mp hpair
    obtain ⟨⟨hf, hf64⟩, horder⟩ := List.forall_mem_cons.mp horder
    have htop : f.lo + fieldWidth f = f.hi + 1 := by unfold fieldWidth; omega
    have hadd := toNat_or_place x (value f) (hx f List.mem_cons_self) (by omega)
    have hbound : (x ||| place (value f) f.lo).toNat < 2 ^ (f.hi + 1) := by
      rw [hadd, ← htop, Nat.pow_add, Nat.mul_comm (2 ^ f.lo)]
      have hlow := hx f List.mem_cons_self
      have hvalue := Nat.mul_le_mul_right (2 ^ f.lo) (value f).isLt
      rw [Nat.succ_mul] at hvalue
      omega
    rw [List.foldl_cons, ih ⟨hpair, horder⟩ fun g hg =>
      hbound.trans_le (Nat.pow_le_pow_right (by decide) (habove g hg)), hadd, placedSum_cons, Nat.add_assoc]

/-- The generic encode of values that fit is the OR of the fields, each in its place (R161). -/
theorem layoutEncode_eq_orFields {fs : Layout} {vs : List (String × Nat)} (hrise : risingLayout fs)
    (hfit : ∀ f ∈ fs, (vs.lookup f.name).getD 0 < 2 ^ fieldWidth f) :
    layoutEncode fs vs = fs.foldl (fun w f => w ||| place (fieldMeant vs f.name (fieldWidth f)) f.lo) 0#64 := by
  have hsum : placedSum (fun f => (fieldMeant vs f.name (fieldWidth f)).toNat) fs =
      placedSum (fun f => (vs.lookup f.name).getD 0) fs := by
    rw [placedSum, List.map_congr_left fun f hf => by
      rw [fieldMeant, BitVec.toNat_ofNat, Nat.mod_eq_of_lt (hfit f hf)], placedSum]
  have hor := toNat_orFields (value := fun f => fieldMeant vs f.name (fieldWidth f)) hrise (x := 0#64)
    fun f _ => Nat.two_pow_pos f.lo
  rw [hsum, BitVec.toNat_zero, Nat.zero_add] at hor
  rw [layoutEncode, ← placedSum, ← hor, BitVec.ofNat_toNat, BitVec.setWidth_eq]

/-- Settles O56: the record's values fit their fields, so its sum of placed fields is their OR. -/
theorem typedEncodeIsTheGenericEncode : Obligations.TypedEncodeIsTheGenericEncode := by
  refine ⟨?_, ?_, ?_, ?_, ?_, ?_, ?_, ?_⟩ <;> intro f
  · rw [layoutEncode_eq_orFields (by decide) (by simp [bitbltbufLayout, fieldWidth, List.lookup_cons]; omega)]
    simp [encodeBitbltbuf, bitbltbufLayout, fieldWidth, fieldMeant, List.lookup_cons]
  · rw [layoutEncode_eq_orFields (by decide) (by simp [trxposLayout, fieldWidth, List.lookup_cons]; omega)]
    simp [encodeTrxpos, trxposLayout, fieldWidth, fieldMeant, List.lookup_cons]
  · rw [layoutEncode_eq_orFields (by decide) (by simp [trxregLayout, fieldWidth, List.lookup_cons]; omega)]
    simp [encodeTrxreg, trxregLayout, fieldWidth, fieldMeant, List.lookup_cons]
  · rw [layoutEncode_eq_orFields (by decide) (by simp [trxdirLayout, fieldWidth, List.lookup_cons]; omega)]
    simp [encodeTrxdir, trxdirLayout, fieldWidth, fieldMeant, List.lookup_cons]
  · rw [layoutEncode_eq_orFields (by decide) (by simp [tex0Layout, fieldWidth, List.lookup_cons]; omega)]
    simp [encodeTex0, tex0Layout, fieldWidth, fieldMeant, List.lookup_cons]
  · rw [layoutEncode_eq_orFields (by decide) (by simp [clampLayout, fieldWidth, List.lookup_cons]; omega)]
    simp [encodeClamp, clampLayout, fieldWidth, fieldMeant, List.lookup_cons]
  · rw [layoutEncode_eq_orFields (by decide) (by simp [tex1Layout, fieldWidth, List.lookup_cons]; omega)]
    simp [encodeTex1, tex1Layout, fieldWidth, fieldMeant, List.lookup_cons]
  · rw [layoutEncode_eq_orFields (by decide) (by simp [tex2Layout, fieldWidth, List.lookup_cons]; omega)]
    simp [encodeTex2, tex2Layout, fieldWidth, fieldMeant, List.lookup_cons]

end Sys2Proof.Machine
end

section
/-! PROOFS. Written CLR, ADR, MOV and IDX commands: each class is read group by group, and assembled exactly where
every group fits (30_encoding.md R71 to R74, R80). -/

namespace Sys2Proof.Machine

/-! ### From a command to its transaction -/

/-- Whatever the command, its own descriptor decodes to it, with any input stream beside it (R70 to R77). -/
theorem decodeCommand_encode_self (i : Instr) (input : List Byte) : decodeCommand ⟨encode i, input⟩ = .ok i :=
  decodeCommand_of_decodeWords_ok (rest := []) (List.append_nil (encode i) ▸ decodeWords_encode_append i [])

/-- The encoder writes exactly the words the `OP` of the command fixes (R70). -/
theorem encode_wellFormed (i : Instr) (input : List Byte) : Command.wellFormed ⟨encode i, input⟩ = true := by
  obtain ⟨w0, ws, henc, hop, hlen⟩ := encode_eq_cons i
  simp only [Command.wellFormed, henc, hop, opOfCode_opCode, hlen, beq_self_eq_true]

theorem assemble_eq_none {l : Line} (h : assembleInstr l = none) : assemble l = none := by
  rw [assemble, h]; rfl

theorem assemble_eq_some {l : Line} {c : Command} (h : assemble l = some c) :
    ∃ i input, assembleInstr l = some (i, input) ∧ ⟨encode i, input⟩ = c := by
  obtain ⟨⟨i, input⟩, hinstr, hc⟩ := Option.map_eq_some_iff.mp h
  exact ⟨i, input, hinstr, hc⟩

theorem assemblesTo_of_eq_ite {op : Op} {operands : List Operand} {fits : Prop} [Decidable fits] {i : Instr}
    {input : List Byte} (h : assembleInstr ⟨op, operands⟩ = if fits then some (i, input) else none) :
    assemblesTo op operands fits i input :=
  assemblesTo_of_assembleInstr (fun hfit => h.trans (if_pos hfit)) (fun hunfit => h.trans (if_neg hunfit))
    (decodeCommand_encode_self i input)

/-- Operands read one group after another are read where both groups fit. -/
theorem bind_ite_none {α β : Type} {p q : Prop} [Decidable p] [Decidable q] {v : α} {f : α → Option β}
    {b : Option β} (hf : f v = if q then b else none) : (if p then some v else none).bind f = if p ∧ q then b else none := by
  rw [ite_and, ← hf]
  split <;> rfl

/-! ### The lines of each class -/

theorem assembleAddr_eq (mk : Surface → Instr) (bp bw x y : Nat) :
    assembleAddr mk [.num bp, .num bw, .num x, .num y] =
      if surfaceOperandsFit bp bw x y then some (mk (surfaceMeant bp bw x y), []) else none := by
  rw [assembleAddr, surfaceOperands_eq]
  split <;> rfl

section
variable (bp bw x y w h cbp cbw : Nat)

theorem assembleUpload_eq (mk : Surface → Extent → Instr) (bs : List Nat) :
    assembleUpload mk [.num bp, .num bw, .num x, .num y, .num w, .num h, .bytes bs] =
      if (surfaceOperandsFit bp bw x y ∧ extentOperandsFit w h) ∧ ∀ b ∈ bs, b < 256 then
        some (mk (surfaceMeant bp bw x y) (extentMeant w h), bs.map (BitVec.ofNat 8))
      else none := by
  rw [assembleUpload, moveOperands_eq]
  refine bind_ite_none ?_
  simp only [inputOperand_eq]
  split <;> rfl

theorem assembleDownload_eq (mk : Surface → Extent → Instr) :
    assembleDownload mk [.num bp, .num bw, .num x, .num y, .num w, .num h] =
      if surfaceOperandsFit bp bw x y ∧ extentOperandsFit w h then
        some (mk (surfaceMeant bp bw x y) (extentMeant w h), [])
      else none := by
  rw [assembleDownload, moveOperands_eq]
  split <;> rfl

/-- An indexed download: the surface, the rectangle and the CLUT reference, and then what `after` reads. -/
def assembleIndexed (after : Surface → Extent → ClutRef → List Operand → Option (Instr × List Byte))
    (ops : List Operand) : Option (Instr × List Byte) := do
  let (a, r, rest) ← moveOperands ops
  let (c, rest) ← clutOperands rest
  after a r c rest

theorem assembleIndexed_eq (after : Surface → Extent → ClutRef → List Operand → Option (Instr × List Byte))
    (tail : List Operand) :
    assembleIndexed after
        (.num bp :: .num bw :: .num x :: .num y :: .num w :: .num h :: .num cbp :: .num cbw :: tail) =
      if (surfaceOperandsFit bp bw x y ∧ extentOperandsFit w h) ∧ clutOperandsFit cbp cbw then
        after (surfaceMeant bp bw x y) (extentMeant w h) (clutMeant cbp cbw) tail
      else none := by
  rw [assembleIndexed, moveOperands_eq]
  refine bind_ite_none ?_
  simp only [clutOperands_eq]
  split <;> rfl

end

/-! ### The last operands of an indexed download -/

/-- `[, alpha=v]`, the last operand of DLIDX8 (R80). -/
def alphaAfter (mk : Option Byte → Instr) (tail : List Operand) : Option (Instr × List Byte) := do
  let alpha ← alphaOperand tail
  return (mk alpha, [])

/-- `[csa] [, alpha=v]`, the last operands of DLIDX4 and XFER_DLIDX (R80; log entry 15). -/
def csaAlphaAfter (mk : BitVec 5 → Option Byte → Instr) (tail : List Operand) : Option (Instr × List Byte) := do
  let (csa, tail) ← csaOperand tail
  alphaAfter (mk csa) tail

theorem assembleDlidx8_eq (ops : List Operand) :
    assembleDlidx8 ops = assembleIndexed (fun a r c => alphaAfter (.dlidx8 a r c)) ops := rfl

theorem assembleDlidx4_eq (ops : List Operand) :
    assembleDlidx4 ops = assembleIndexed (fun a r c => csaAlphaAfter (.dlidx4 a r c)) ops := rfl

theorem assembleXferDlidx_eq (psm : BitVec 6) (ops : List Operand) :
    assembleXferDlidx psm ops = assembleIndexed (fun a r c => csaAlphaAfter (.xferDlidx psm a r c)) ops := rfl

theorem alphaOperand_of_wide {v : Nat} (h : 256 ≤ v) : alphaOperand [.alpha v] = none := by
  have hwide : ¬ v < 2 ^ 8 := Nat.not_lt.mpr h
  rw [alphaOperand, bitsOperand_eq, if_neg hwide]
  rfl

/-- An alpha is no CSA: where none is written the operand list begins with the alpha, or is empty (R80). -/
theorem csaOperand_of_alphaMeant {tail : List Operand} {alpha : Option Byte} (h : alphaMeant tail alpha) :
    csaOperand tail = some (0, tail) := by
  unfold alphaMeant at h
  split at h
  · rfl
  · rfl
  · exact h.elim

theorem alphaAfter_of_meant (mk : Option Byte → Instr) {tail : List Operand} {alpha : Option Byte}
    (h : alphaMeant tail alpha) : alphaAfter mk tail = some (mk alpha, []) := by
  rw [alphaAfter, alphaOperand_of_meant h]
  rfl

theorem alphaAfter_of_wide (mk : Option Byte → Instr) {v : Nat} (h : 256 ≤ v) :
    alphaAfter mk [.alpha v] = none := by
  rw [alphaAfter, alphaOperand_of_wide h]
  rfl

theorem csaAlphaAfter_of_meant (mk : BitVec 5 → Option Byte → Instr) {tail : List Operand} {alpha : Option Byte}
    (h : alphaMeant tail alpha) : csaAlphaAfter mk tail = some (mk 0 alpha, []) := by
  rw [csaAlphaAfter, csaOperand_of_alphaMeant h]
  exact alphaAfter_of_meant (mk 0) h

theorem csaAlphaAfter_num (mk : BitVec 5 → Option Byte → Instr) (csa : Nat) (tail : List Operand) :
    csaAlphaAfter mk (.num csa :: tail) = if csa < 32 then alphaAfter (mk (BitVec.ofNat 5 csa)) tail else none := by
  change _ = if csa < 2 ^ 5 then _ else _
  rw [csaAlphaAfter, csaOperand, bitsOperand_eq]
  split <;> rfl

theorem csaAlphaAfter_of_wide (mk : BitVec 5 → Option Byte → Instr) {v : Nat} (h : 256 ≤ v) :
    csaAlphaAfter mk [.alpha v] = none := alphaAfter_of_wide (mk 0) h

theorem csaAlphaAfter_num_of_wide (mk : BitVec 5 → Option Byte → Instr) (csa : Nat) {v : Nat} (h : 256 ≤ v) :
    csaAlphaAfter mk [.num csa, .alpha v] = none := by
  rw [csaAlphaAfter_num, alphaAfter_of_wide _ h, ite_self]

/-! ### Dispatched transfers: `psm`, then the operands of the transfer -/

section
variable {after : BitVec 6 → List Operand → Option (Instr × List Byte)} {o : Operand} {tail : List Operand}

theorem assembleXfer_of_meant {psm : BitVec 6} (h : psmMeant o psm) :
    assembleXfer after (o :: tail) = after psm tail := by
  rw [assembleXfer, psmOperand_of_meant h]
  rfl

theorem assembleXfer_of_not_meant (h : ∀ psm, ¬ psmMeant o psm) : assembleXfer after (o :: tail) = none := by
  rw [assembleXfer, psmOperand_of_not_meant h]
  rfl

theorem assembleXfer_eq_none (h : ∀ psm, after psm tail = none) : assembleXfer after (o :: tail) = none := by
  rw [assembleXfer]
  cases psmOperand o with
  | none => rfl
  | some psm => exact h psm

end

/-! ### Indexed downloads as meant -/

section
variable {bp bw x y w h cbp cbw : Nat} {tail : List Operand} {alpha : Option Byte}

/-- An indexed download whose last operands are not read is not assembled, whatever stands before them. -/
theorem assembleIndexed_eq_none {after : Surface → Extent → ClutRef → List Operand → Option (Instr × List Byte)}
    (hafter : ∀ a r c, after a r c tail = none) :
    assembleIndexed after
      (.num bp :: .num bw :: .num x :: .num y :: .num w :: .num h :: .num cbp :: .num cbw :: tail) = none := by
  rw [assembleIndexed_eq, hafter, ite_self]

theorem assembleIndexed_alpha (mk : Surface → Extent → ClutRef → Option Byte → Instr)
    (halpha : alphaMeant tail alpha) :
    assembleIndexed (fun a r c => alphaAfter (mk a r c))
        (.num bp :: .num bw :: .num x :: .num y :: .num w :: .num h :: .num cbp :: .num cbw :: tail) =
      if (surfaceOperandsFit bp bw x y ∧ extentOperandsFit w h) ∧ clutOperandsFit cbp cbw then
        some (mk (surfaceMeant bp bw x y) (extentMeant w h) (clutMeant cbp cbw) alpha, [])
      else none := by
  rw [assembleIndexed_eq, alphaAfter_of_meant _ halpha]

theorem assembleIndexed_csaLeftOut (mk : Surface → Extent → ClutRef → BitVec 5 → Option Byte → Instr)
    (halpha : alphaMeant tail alpha) :
    assembleIndexed (fun a r c => csaAlphaAfter (mk a r c))
        (.num bp :: .num bw :: .num x :: .num y :: .num w :: .num h :: .num cbp :: .num cbw :: tail) =
      if (surfaceOperandsFit bp bw x y ∧ extentOperandsFit w h) ∧ clutOperandsFit cbp cbw then
        some (mk (surfaceMeant bp bw x y) (extentMeant w h) (clutMeant cbp cbw) 0 alpha, [])
      else none := by
  rw [assembleIndexed_eq, csaAlphaAfter_of_meant _ halpha]

theorem assembleIndexed_csa (mk : Surface → Extent → ClutRef → BitVec 5 → Option Byte → Instr) (csa : Nat)
    (halpha : alphaMeant tail alpha) :
    assembleIndexed (fun a r c => csaAlphaAfter (mk a r c))
        (.num bp :: .num bw :: .num x :: .num y :: .num w :: .num h :: .num cbp :: .num cbw :: .num csa :: tail) =
      if ((surfaceOperandsFit bp bw x y ∧ extentOperandsFit w h) ∧ clutOperandsFit cbp cbw) ∧ csa < 32 then
        some (mk (surfaceMeant bp bw x y) (extentMeant w h) (clutMeant cbp cbw) (BitVec.ofNat 5 csa) alpha, [])
      else none := by
  rw [assembleIndexed_eq, csaAlphaAfter_num, alphaAfter_of_meant _ halpha, ← ite_and]

end

/-- Settles O19: each line is read where its operands fit and to the command meant, and what is assembled is that
command's own descriptor. -/
theorem assemblerRefusesTransferOperandsThatDoNotFit :
    Obligations.AssemblerRefusesTransferOperandsThatDoNotFit := by
  refine ⟨?_, ?_⟩
  · rintro bp bw x y w h cbp cbw csa bs _ _ _ _ _ _ _ _ _ rfl rfl rfl rfl rfl rfl rfl rfl rfl
    refine ⟨?clearAddr, ?upload, ?download, ?indexed, ?wideAlpha, ?dispatched, ?dispatchedWideAlpha, ?noPsm⟩
    case clearAddr =>
      exact ⟨assemblesTo_of_eq_ite (if_pos trivial).symm, assemblesTo_of_eq_ite (assembleAddr_eq ..),
        assemblesTo_of_eq_ite (assembleAddr_eq ..), assemblesTo_of_eq_ite (assembleAddr_eq ..)⟩
    case upload =>
      exact ⟨assemblesTo_of_eq_ite (assembleUpload_eq ..), assemblesTo_of_eq_ite (assembleUpload_eq ..),
        assemblesTo_of_eq_ite (assembleUpload_eq ..)⟩
    case download =>
      exact ⟨assemblesTo_of_eq_ite (assembleDownload_eq ..), assemblesTo_of_eq_ite (assembleDownload_eq ..),
        assemblesTo_of_eq_ite (assembleDownload_eq ..)⟩
    case indexed =>
      refine fun tail alpha halpha => ⟨?_, ?_⟩ <;> refine assemblesTo_of_eq_ite ?_
      · exact (assembleDlidx8_eq _).trans (assembleIndexed_alpha .dlidx8 halpha)
      · exact (assembleDlidx4_eq _).trans (assembleIndexed_csa .dlidx4 csa halpha)
    case wideAlpha =>
      refine fun v hv => ⟨?_, ?_⟩ <;> refine assemble_eq_none ?_
      · exact (assembleDlidx8_eq _).trans (assembleIndexed_eq_none fun _ _ _ => alphaAfter_of_wide _ hv)
      · exact (assembleDlidx4_eq _).trans (assembleIndexed_eq_none fun _ _ _ => csaAlphaAfter_num_of_wide _ csa hv)
    case dispatched =>
      refine fun o psm hpsm => ⟨?_, ?_, fun tail alpha halpha => ⟨?_, ?_⟩⟩ <;>
        refine assemblesTo_of_eq_ite ((assembleXfer_of_meant hpsm).trans ?_)
      · exact assembleUpload_eq ..
      · exact assembleDownload_eq ..
      · exact (assembleXferDlidx_eq psm _).trans (assembleIndexed_csaLeftOut (.xferDlidx psm) halpha)
      · exact (assembleXferDlidx_eq psm _).trans (assembleIndexed_csa (.xferDlidx psm) csa halpha)
    case dispatchedWideAlpha =>
      refine fun o v hv => ⟨?_, ?_⟩ <;>
        refine assemble_eq_none (assembleXfer_eq_none fun psm => (assembleXferDlidx_eq psm _).trans ?_)
      · exact assembleIndexed_eq_none fun _ _ _ => csaAlphaAfter_of_wide _ hv
      · exact assembleIndexed_eq_none fun _ _ _ => csaAlphaAfter_num_of_wide _ csa hv
    case noPsm =>
      exact fun o tail hpsm => ⟨assemble_eq_none (assembleXfer_of_not_meant hpsm),
        assemble_eq_none (assembleXfer_of_not_meant hpsm), assemble_eq_none (assembleXfer_of_not_meant hpsm)⟩
  · intro l c hc
    obtain ⟨i, input, hinstr, rfl⟩ := assemble_eq_some hc
    exact ⟨i, hinstr, decodeCommand_encode_self i input, encode_wellFormed i input⟩

end Sys2Proof.Machine
end

section
/-! PROOFS. The three translators: what each address command answers, the tables as bit formulas and as permutations,
and the one-to-one map of a buffer's texels onto units (40_translator.md R120 to R135). -/

namespace Sys2Proof.Machine

/-! ### The address commands (R132 to R134) -/

/-- On an engine that has not faulted a command that only answers adds its response and changes nothing else. -/
theorem whenReady_finish {s : State} (h : s.fault = none) (r : Result) :
    whenReady s (finish s r) = .next { s with results := s.results ++ [⟨.ok, r⟩] } :=
  whenReady_ready _ h

/-- Settles O20: the answer is the texel's PSMCT32 offset, four times its word offset. -/
theorem addr32ReturnsItsOffset : Obligations.Addr32ReturnsItsOffset := by
  rintro a s _ _ _ _ hready rfl rfl rfl rfl
  refine (whenReady_finish hready (.offset (texel32 a (a.x.toNat, a.y.toNat)))).trans ?_
  rw [texel32, addr32_eq]
  ring_nf

/-- Settles O21: the answer is the texel's PSMT8 offset. -/
theorem addr8ReturnsItsOffset : Obligations.Addr8ReturnsItsOffset := by
  rintro a s _ _ _ _ hready rfl rfl rfl rfl
  refine (whenReady_finish hready (.offset (texel8 a (a.x.toNat, a.y.toNat)))).trans ?_
  rw [texel8, addr8_eq]

/-- Settles O22: the answer is the texel's PSMT4 offset. -/
theorem addr4ReturnsItsOffset : Obligations.Addr4ReturnsItsOffset := by
  rintro a s _ _ _ _ hready rfl rfl rfl rfl
  refine (whenReady_finish hready (.offset (texel4 a (a.x.toNat, a.y.toNat)))).trans ?_
  rw [texel4, addr4_eq]

/-! ### Pages, blocks and columns in texels (R44, R120, R123) -/

/-- The block of a texel, its table indexed by the block's row and column in the page. -/
theorem blockOf_eq (f : Format) (bp x y : Nat) :
    blockOf f bp x y = bp % 32 + tableAt (geometry f).blockTable
      (y / (texelGeometry f).blockH % ((texelGeometry f).pageH / (texelGeometry f).blockH))
      (x / (texelGeometry f).blockW % ((texelGeometry f).pageW / (texelGeometry f).blockW)) := by
  have h5 := and_mask bp 5
  have h3 := fun n => and_mask n 3
  have h2 := fun n => and_mask n 2
  simp only [Nat.reducePow, Nat.reduceSub] at h5 h3 h2
  cases f <;> simp only [blockOf, geometry, texelGeometry, h5, h3, h2, Nat.shiftRight_eq_div_pow, Nat.reducePow,
    Nat.reduceDiv]

/-- The place of a texel in its block, its table indexed by the texel's row and column in the block. -/
theorem columnOf_eq (f : Format) (x y : Nat) :
    columnOf f x y =
      tableAt (geometry f).columnTable (y % (texelGeometry f).blockH) (x % (texelGeometry f).blockW) := by
  have h5 := fun n => and_mask n 5
  have h4 := fun n => and_mask n 4
  have h3 := fun n => and_mask n 3
  simp only [Nat.reducePow, Nat.reduceSub] at h5 h4 h3
  cases f <;> simp only [columnOf, geometry, texelGeometry, h5, h4, h3]

/-- The page of a texel of the buffer, counted from the page of its base. -/
def pageInBuffer (f : Format) (bw x y : Nat) : Nat :=
  y / (texelGeometry f).pageH * pagesPerRow f bw + x / (texelGeometry f).pageW

theorem two_pow_pageShiftX (f : Format) : 2 ^ (geometry f).pageShiftX = (texelGeometry f).pageW := by
  cases f <;> rfl

theorem two_pow_pageShiftY (f : Format) : 2 ^ (geometry f).pageShiftY = (texelGeometry f).pageH := by
  cases f <;> rfl

/-- A page is 32 blocks (R42). -/
theorem two_pow_pageShift (f : Format) : 2 ^ (geometry f).pageShift = 32 * 2 ^ (geometry f).blockShift := by
  cases f <;> rfl

/-- The base's block number carries into the page (R123). -/
theorem unitOffset_eq (f : Format) (bp bw x y : Nat) :
    unitOffset f bp bw x y =
      (bp + (pageInBuffer f bw x y * 32 + blockOf f 0 x y)) * 2 ^ (geometry f).blockShift + columnOf f x y := by
  have hblock : blockOf f bp x y = bp % 32 + blockOf f 0 x y := by rw [blockOf_eq, blockOf_eq, Nat.zero_mod, zero_add]
  have hpage : pageOf f bp bw x y = bp / 32 + pageInBuffer f bw x y := by
    rw [pageOf, pageInBuffer, Nat.shiftRight_eq_div_pow, Nat.shiftRight_eq_div_pow, Nat.shiftRight_eq_div_pow,
      two_pow_pageShiftX, two_pow_pageShiftY, Nat.add_assoc]
  have hbp : bp = 32 * (bp / 32) + bp % 32 := (Nat.div_add_mod bp 32).symm
  rw [unitOffset, hblock, hpage, Nat.shiftLeft_eq, Nat.shiftLeft_eq, two_pow_pageShift]
  conv_rhs => rw [hbp]
  ring

/-- Settles O26: the shifts of the page are those of its width and height. -/
theorem blocksRunOnFromTheBase : Obligations.BlocksRunOnFromTheBase := by
  intro f bp bw x y
  rw [unitOffset_eq, two_pow_pageShiftX, two_pow_pageShiftY, pageInBuffer, Nat.mul_comm _ 32, Nat.add_assoc]

/-! ### The tables as bit formulas (R130) -/

theorem bt32_bits : ∀ r < 4, ∀ c < 8,
    tableAt bt32 r c = c % 2 + 2 * (r % 2) + 4 * (c / 2 % 2) + 8 * (r / 2 % 2) + 16 * (c / 4 % 2) := by
  decide +kernel

theorem bt4_bits : ∀ r < 8, ∀ c < 4,
    tableAt bt4 r c = r % 2 + 2 * (c % 2) + 4 * (r / 2 % 2) + 8 * (c / 2 % 2) + 16 * (r / 4 % 2) := by
  decide +kernel

theorem ct32_bits : ∀ r < 8, ∀ c < 8, tableAt ct32 r c = 16 * (r / 2) + (4 * (c / 2) + 2 * (r % 2) + c % 2) := by
  decide +kernel

/-- R130's `wx`: the place of a texel in its run of eight, the two halves of the run swapped in every other pair of
rows. -/
def swappedColumn (x y : Nat) : Nat := (x % 8 + (if y / 2 % 2 = y / 4 % 2 then 0 else 4)) % 8

theorem swappedColumn_mod {m n : Nat} (hm : 8 ∣ m) (hn : 8 ∣ n) (x y : Nat) :
    swappedColumn (x % m) (y % n) = swappedColumn x y := by
  have hx : x % m % 8 = x % 8 := Nat.mod_mod_of_dvd x hm
  have hy : y % n % 8 = y % 8 := Nat.mod_mod_of_dvd y hn
  have h2 : y % n / 2 % 2 = y / 2 % 2 := by omega
  have h4 : y % n / 4 % 2 = y / 4 % 2 := by omega
  rw [swappedColumn, swappedColumn, hx, h2, h4]

theorem ct8_bits : ∀ r < 16, ∀ c < 16, tableAt ct8 r c =
    64 * (r / 4) + 4 * (4 * (swappedColumn c r / 2) + 2 * (r % 2) + swappedColumn c r % 2) + 2 * (c / 8 % 2)
      + r / 2 % 2 := by
  decide +kernel

theorem ct4_bits : ∀ r < 16, ∀ c < 32, tableAt ct4 r c =
    128 * (r / 4) + 8 * (4 * (swappedColumn c r / 2) + 2 * (r % 2) + swappedColumn c r % 2) + 2 * (c / 8 % 4)
      + r / 2 % 2 := by
  decide +kernel

/-- Settles O23: each table at a texel's indices is its bit formula there, whose bits are the texel's own. -/
theorem tablesFollowTheBitFormulas : Obligations.TablesFollowTheBitFormulas := by
  intro bp x y wx hwx
  replace hwx : swappedColumn x y = wx := hwx.symm
  refine ⟨?block32, ?block8, ?block4, ?column32, ?column8, ?column4⟩
  case block32 =>
    have h := bt32_bits (y / 8 % 4) (Nat.mod_lt _ (by decide)) (x / 8 % 8) (Nat.mod_lt _ (by decide))
    simp only [blockOf_eq, geometry, texelGeometry, Nat.reduceDiv, h]
    omega
  case block8 =>
    have h := bt32_bits (y / 16 % 4) (Nat.mod_lt _ (by decide)) (x / 16 % 8) (Nat.mod_lt _ (by decide))
    simp only [blockOf_eq, geometry, texelGeometry, Nat.reduceDiv, bt8, h]
    omega
  case block4 =>
    have h := bt4_bits (y / 16 % 8) (Nat.mod_lt _ (by decide)) (x / 32 % 4) (Nat.mod_lt _ (by decide))
    simp only [blockOf_eq, geometry, texelGeometry, Nat.reduceDiv, h]
    omega
  case column32 =>
    have h := ct32_bits (y % 8) (Nat.mod_lt _ (by decide)) (x % 8) (Nat.mod_lt _ (by decide))
    simp only [columnOf_eq, geometry, texelGeometry, h]
    omega
  case column8 =>
    have h := ct8_bits (y % 16) (Nat.mod_lt _ (by decide)) (x % 16) (Nat.mod_lt _ (by decide))
    rw [swappedColumn_mod (by decide) (by decide), hwx] at h
    simp only [columnOf_eq, geometry, texelGeometry, h]
    omega
  case column4 =>
    have h := ct4_bits (y % 16) (Nat.mod_lt _ (by decide)) (x % 32) (Nat.mod_lt _ (by decide))
    rw [swappedColumn_mod (by decide) (by decide), hwx] at h
    simp only [columnOf_eq, geometry, texelGeometry, h]
    omega

/-! ### Alignment and the first page (R135) -/

/-- Settles O24: in the first page the page term is the base's, and block and column stay below a page's bytes. -/
theorem addr32AlignedAndWithinItsPage : Obligations.Addr32AlignedAndWithinItsPage := by
  intro bp bw x y
  have hblock := bt32_lt (y / 8 % 4) (Nat.mod_lt _ (by decide)) (x / 8 % 8) (Nat.mod_lt _ (by decide))
  have hcolumn := ct32_lt (y % 8) (Nat.mod_lt _ (by decide)) (x % 8) (Nat.mod_lt _ (by decide))
  rw [addr32_eq]
  refine ⟨by omega, fun hbp hx hy => ?_⟩
  rw [Nat.div_eq_of_lt hx, Nat.div_eq_of_lt hy, hbp]
  omega

/-! ### The tables as permutations (R131) -/

/-- The entries of the table are `0` to `rows * cols - 1`, each once. -/
def isPermutation (t : Table) (rows cols : Nat) : Prop :=
  (Finset.range rows ×ˢ Finset.range cols).image (fun p => tableAt t p.1 p.2) = Finset.range (rows * cols)

section
variable {t : Table} {rows cols : Nat}

/-- A table that holds each number in a cell holds nothing else: it has no cell left over. -/
theorem isPermutation_of_exists (h : ∀ v < rows * cols, ∃ r < rows, ∃ c < cols, tableAt t r c = v) :
    isPermutation t rows cols := by
  refine (Finset.eq_of_subset_of_card_le (fun v hv => ?_) ?_).symm
  · obtain ⟨r, hr, c, hc, hat⟩ := h v (Finset.mem_range.mp hv)
    exact Finset.mem_image.mpr ⟨(r, c), by simp [hr, hc], hat⟩
  · simpa using Finset.card_image_le (s := Finset.range rows ×ˢ Finset.range cols)
      (f := fun p => tableAt t p.1 p.2)

theorem tableAt_lt (h : isPermutation t rows cols) {r c : Nat} (hr : r < rows) (hc : c < cols) :
    tableAt t r c < rows * cols := by
  have hmem := Finset.mem_image_of_mem (fun p : Nat × Nat => tableAt t p.1 p.2)
    (Finset.mk_mem_product (Finset.mem_range.mpr hr) (Finset.mem_range.mpr hc))
  rwa [h, Finset.mem_range] at hmem

theorem exists_tableAt (h : isPermutation t rows cols) {v : Nat} (hv : v < rows * cols) :
    ∃ r c, r < rows ∧ c < cols ∧ tableAt t r c = v := by
  have hmem : v ∈ Finset.range (rows * cols) := Finset.mem_range.mpr hv
  rw [← h] at hmem
  simpa [and_assoc] using hmem

/-- As many cells as entries, so no entry stands in two cells. -/
theorem tableAt_inj (h : isPermutation t rows cols) {r c r' c' : Nat} (hr : r < rows) (hc : c < cols)
    (hr' : r' < rows) (hc' : c' < cols) (heq : tableAt t r c = tableAt t r' c') : r = r' ∧ c = c' := by
  rw [isPermutation] at h
  have hinj : Set.InjOn (fun p : Nat × Nat => tableAt t p.1 p.2) ↑(Finset.range rows ×ˢ Finset.range cols) :=
    Finset.card_image_iff.mp (by rw [h]; simp)
  exact Prod.mk.inj (hinj (by simp [hr, hc]) (by simp [hr', hc']) heq)

end

theorem blockTable_isPermutation (f : Format) : isPermutation (geometry f).blockTable
    ((texelGeometry f).pageH / (texelGeometry f).blockH) ((texelGeometry f).pageW / (texelGeometry f).blockW) := by
  apply isPermutation_of_exists
  cases f <;> decide +kernel

/-- The row and the column at which a format's column table holds an entry, read off the entry's bits (R130). -/
def cellOfUnit (f : Format) (u : Nat) : Nat × Nat :=
  match f with
  | .psmct32 => (2 * (u / 16) + u / 2 % 2, 2 * (u / 4 % 4) + u % 2)
  | .psmt8 =>
    let row := 4 * (u / 64) + 2 * (u % 2) + u / 8 % 2
    (row, 8 * (u / 2 % 2) + swappedColumn (2 * (u / 16 % 4) + u / 4 % 2) row)
  | .psmt4 =>
    let row := 4 * (u / 128) + 2 * (u % 2) + u / 16 % 2
    (row, 8 * (u / 2 % 4) + swappedColumn (2 * (u / 32 % 4) + u / 8 % 2) row)

theorem columnTable_cellOfUnit (f : Format) : ∀ u < (texelGeometry f).blockH * (texelGeometry f).blockW,
    (cellOfUnit f u).1 < (texelGeometry f).blockH ∧ (cellOfUnit f u).2 < (texelGeometry f).blockW ∧
      tableAt (geometry f).columnTable (cellOfUnit f u).1 (cellOfUnit f u).2 = u := by
  cases f <;> decide +kernel

theorem columnTable_isPermutation (f : Format) :
    isPermutation (geometry f).columnTable (texelGeometry f).blockH (texelGeometry f).blockW :=
  isPermutation_of_exists fun u hu => by
    obtain ⟨hrow, hcol, hat⟩ := columnTable_cellOfUnit f u hu
    exact ⟨_, hrow, _, hcol, hat⟩

/-! ### Texels and units, one to one (R131, R135) -/

/-- A quotient and a remainder are told from the number they make. -/
theorem eq_of_mul_add_eq {n a a' c c' : Nat} (hc : c < n) (hc' : c' < n) (h : a * n + c = a' * n + c') :
    a = a' ∧ c = c' := by
  have hmod := congrArg (· % n) h
  simp only [Nat.mul_add_mod_self_right, Nat.mod_eq_of_lt hc, Nat.mod_eq_of_lt hc'] at hmod
  subst hmod
  exact ⟨Nat.eq_of_mul_eq_mul_right (Nat.zero_lt_of_lt hc) (Nat.add_right_cancel h), rfl⟩

/-- A block is a power of two of units, one for each of its texels. -/
theorem blockH_mul_blockW (f : Format) :
    (texelGeometry f).blockH * (texelGeometry f).blockW = 2 ^ (geometry f).blockShift := by
  cases f <;> rfl

/-- A page is 32 blocks, by rows and columns of blocks. -/
theorem blocksPerPage (f : Format) : (texelGeometry f).pageH / (texelGeometry f).blockH *
    ((texelGeometry f).pageW / (texelGeometry f).blockW) = 32 := by
  cases f <;> rfl

section
variable (f : Format)

theorem blockW_pos : 0 < (texelGeometry f).blockW := by cases f <;> decide

theorem blockH_pos : 0 < (texelGeometry f).blockH := by cases f <;> decide

theorem pageW_div_blockW_pos : 0 < (texelGeometry f).pageW / (texelGeometry f).blockW := by cases f <;> decide

theorem pageH_div_blockH_pos : 0 < (texelGeometry f).pageH / (texelGeometry f).blockH := by cases f <;> decide

theorem columnOf_lt (x y : Nat) : columnOf f x y < 2 ^ (geometry f).blockShift := by
  rw [columnOf_eq, ← blockH_mul_blockW]
  exact tableAt_lt (columnTable_isPermutation f) (Nat.mod_lt _ (blockH_pos f)) (Nat.mod_lt _ (blockW_pos f))

theorem blockOf_zero_lt (x y : Nat) : blockOf f 0 x y < 32 := by
  rw [blockOf_eq, Nat.zero_mod, Nat.zero_add, ← blocksPerPage f]
  exact tableAt_lt (blockTable_isPermutation f) (Nat.mod_lt _ (pageH_div_blockH_pos f))
    (Nat.mod_lt _ (pageW_div_blockW_pos f))

/-- Two texels of the buffer in one page, one block of it and one place of that are one texel. -/
theorem texel_eq {x y x' y' : Nat}
    (hpageX : x / (texelGeometry f).pageW = x' / (texelGeometry f).pageW)
    (hpageY : y / (texelGeometry f).pageH = y' / (texelGeometry f).pageH)
    (hblock : blockOf f 0 x y = blockOf f 0 x' y') (hcolumn : columnOf f x y = columnOf f x' y') :
    x = x' ∧ y = y' := by
  rw [blockOf_eq, blockOf_eq, Nat.zero_mod, Nat.zero_add, Nat.zero_add] at hblock
  rw [columnOf_eq, columnOf_eq] at hcolumn
  obtain ⟨hblockY, hblockX⟩ := tableAt_inj (blockTable_isPermutation f) (Nat.mod_lt _ (pageH_div_blockH_pos f))
    (Nat.mod_lt _ (pageW_div_blockW_pos f)) (Nat.mod_lt _ (pageH_div_blockH_pos f))
    (Nat.mod_lt _ (pageW_div_blockW_pos f)) hblock
  obtain ⟨hcolumnY, hcolumnX⟩ := tableAt_inj (columnTable_isPermutation f) (Nat.mod_lt _ (blockH_pos f))
    (Nat.mod_lt _ (blockW_pos f)) (Nat.mod_lt _ (blockH_pos f)) (Nat.mod_lt _ (blockW_pos f)) hcolumn
  cases f <;>
    simp only [texelGeometry, Nat.reduceDiv] at hpageX hpageY hblockX hblockY hcolumnX hcolumnY <;>
    omega

/-- R135 (c), for a base in any block: no two texels of the buffer's width share a unit. -/
theorem unitOffset_inj {bp bw x y x' y' : Nat} (hx : x < (texelGeometry f).pageW * pagesPerRow f bw)
    (hx' : x' < (texelGeometry f).pageW * pagesPerRow f bw)
    (h : unitOffset f bp bw x y = unitOffset f bp bw x' y') : x = x' ∧ y = y' := by
  rw [unitOffset_eq, unitOffset_eq] at h
  obtain ⟨hblocks, hcolumn⟩ := eq_of_mul_add_eq (columnOf_lt f x y) (columnOf_lt f x' y') h
  obtain ⟨hpages, hblock⟩ :=
    eq_of_mul_add_eq (blockOf_zero_lt f x y) (blockOf_zero_lt f x' y') (Nat.add_left_cancel hblocks)
  obtain ⟨hpageY, hpageX⟩ :=
    eq_of_mul_add_eq (Nat.div_lt_of_lt_mul hx) (Nat.div_lt_of_lt_mul hx') hpages
  exact texel_eq f hpageX hpageY hblock hcolumn

/-- Each block and each place in it is that of a texel of the page. -/
theorem exists_texel {b k : Nat} (hb : b < 32) (hk : k < 2 ^ (geometry f).blockShift) :
    ∃ x y, x < (texelGeometry f).pageW ∧ y < (texelGeometry f).pageH ∧ blockOf f 0 x y = b ∧ columnOf f x y = k := by
  rw [← blocksPerPage f] at hb
  rw [← blockH_mul_blockW] at hk
  obtain ⟨r, c, hr, hc, hblock⟩ := exists_tableAt (blockTable_isPermutation f) hb
  obtain ⟨r', c', hr', hc', hcolumn⟩ := exists_tableAt (columnTable_isPermutation f) hk
  refine ⟨(texelGeometry f).blockW * c + c', (texelGeometry f).blockH * r + r', ?_, ?_, ?_, ?_⟩
  · cases f <;> simp only [texelGeometry, Nat.reduceDiv] at hc hc' ⊢ <;> omega
  · cases f <;> simp only [texelGeometry, Nat.reduceDiv] at hr hr' ⊢ <;> omega
  · rw [blockOf_eq, Nat.mul_add_div (blockH_pos f), Nat.mul_add_div (blockW_pos f), Nat.div_eq_of_lt hr',
      Nat.div_eq_of_lt hc', Nat.add_zero, Nat.add_zero, Nat.mod_eq_of_lt hr, Nat.mod_eq_of_lt hc, hblock,
      Nat.zero_mod, Nat.zero_add]
  · rw [columnOf_eq, Nat.mul_add_mod, Nat.mul_add_mod, Nat.mod_eq_of_lt hr', Nat.mod_eq_of_lt hc', hcolumn]

/-- R131, the onto half: from a page-aligned base each unit of the page is a texel's. -/
theorem exists_unitOffset {bp u : Nat} (bw : Nat) (hbp : bp % 32 = 0) (hu : u < 2 ^ (geometry f).pageShift) :
    ∃ x y, x < (texelGeometry f).pageW ∧ y < (texelGeometry f).pageH ∧
      unitOffset f bp bw x y = 2 ^ (geometry f).pageShift * (bp / 32) + u := by
  rw [two_pow_pageShift] at hu ⊢
  obtain ⟨x, y, hx, hy, hblock, hcolumn⟩ :=
    exists_texel f (Nat.div_lt_of_lt_mul (by rwa [Nat.mul_comm] at hu)) (Nat.mod_lt u (Nat.two_pow_pos _))
  refine ⟨x, y, hx, hy, ?_⟩
  have hbase : bp = 32 * (bp / 32) := by omega
  have hunit := Nat.div_add_mod u (2 ^ (geometry f).blockShift)
  rw [unitOffset_eq, hblock, hcolumn, pageInBuffer, Nat.div_eq_of_lt hx, Nat.div_eq_of_lt hy]
  conv_lhs => rw [hbase]
  conv_rhs => rw [← hunit]
  ring

end

theorem addr32_eq_four_mul (bp bw x y : Nat) : addr32 bp bw x y = 4 * unitOffset .psmct32 bp bw x y := by
  rw [addr32, Nat.shiftLeft_eq, Nat.mul_comm]

/-- Settles O25: the base's page alignment plays no part. -/
theorem translatorsAreInjective : Obligations.TranslatorsAreInjective := by
  intro bp bw x y x' y' _ _
  refine ⟨fun hx hx' h => ?_, unitOffset_inj .psmt8, unitOffset_inj .psmt4⟩
  rw [addr32_eq_four_mul, addr32_eq_four_mul] at h
  exact unitOffset_inj .psmct32 hx hx' (Nat.eq_of_mul_eq_mul_left (by decide) h)

/-- Settles O27: a PSMCT32 unit is four bytes, a PSMT8 and a PSMT4 unit the offset's own. -/
theorem pageTexelsReachEveryUnit : Obligations.PageTexelsReachEveryUnit := by
  intro bp bw u hbp
  refine ⟨fun hu => ?_, exists_unitOffset .psmt8 bw hbp, exists_unitOffset .psmt4 bw hbp⟩
  obtain ⟨x, y, hx, hy, h⟩ := exists_unitOffset .psmct32 bw hbp hu
  exact ⟨x, y, hx, hy, by rw [addr32_eq_four_mul, h]; rfl⟩

end Sys2Proof.Machine
end

section
/-! PROOFS. The register codec as commands: what each DEC and ENC command returns, the round-trip laws, and the
projection of TEX0 onto TEX2 (41_register_codec.md R161 to R180). -/

namespace Sys2Proof.Machine

/-! ### The DEC commands -/

/-- Settles O48: each command answers with its register's typed decode, whose fields are bit ranges of the word. -/
theorem decTransferRegistersReturnFields : Obligations.DecTransferRegistersReturnFields := by
  rintro rw s _ hready rfl
  refine ⟨⟨_, whenReady_finish hready _, ?_⟩, ⟨_, whenReady_finish hready _, ?_⟩, ⟨_, whenReady_finish hready _, ?_⟩,
    ⟨_, whenReady_finish hready _, ?_⟩⟩
  · simp only [decodeBitbltbuf, toNat_extract, Nat.pow_zero, Nat.div_one, and_self]
  · simp only [decodeTrxpos, toNat_extract, Nat.pow_zero, Nat.div_one, and_self]
  · simp only [decodeTrxreg, toNat_extract, Nat.pow_zero, Nat.div_one, and_self]
  · simp only [decodeTrxdir, toNat_extract, Nat.pow_zero, Nat.div_one]

/-- Settles O49: each command answers with its register's typed decode, whose fields are bit ranges of the word. -/
theorem decTextureRegistersReturnFields : Obligations.DecTextureRegistersReturnFields := by
  rintro rw s _ hready rfl
  refine ⟨⟨_, whenReady_finish hready _, ?_⟩, ⟨_, whenReady_finish hready _, ?_⟩, ⟨_, whenReady_finish hready _, ?_⟩,
    ⟨_, whenReady_finish hready _, ?_⟩⟩
  · simp only [decodeTex0, toNat_extract, Nat.pow_zero, Nat.div_one, Nat.pow_one, and_self]
  · simp only [decodeClamp, toNat_extract, Nat.pow_zero, Nat.div_one, and_self]
  · simp only [decodeTex1, toNat_extract, Nat.pow_zero, Nat.div_one, Nat.pow_one, and_self]
  · simp only [decodeTex2, toNat_extract, Nat.pow_one, and_self]

/-! ### The ENC commands -/

@[simp] theorem placedSum_nil (value : Field → Nat) : placedSum value [] = 0 := rfl

/-- A generic encode whose sum of placed fields stays within 64 bits is that sum (R161). -/
theorem toNat_layoutEncode {fs : Layout} {vs : List (String × Nat)} {n : Nat}
    (hsum : placedSum (fun f => (vs.lookup f.name).getD 0) fs = n) (h : n < 2 ^ 64) :
    (layoutEncode fs vs).toNat = n := by
  rw [layoutEncode, ← placedSum, hsum, BitVec.toNat_ofNat, Nat.mod_eq_of_lt h]

/-- Settles O50: the typed encode is the generic one, and the fields at full width reach no bit beyond 63. -/
theorem encTransferRegistersReturnWords : Obligations.EncTransferRegistersReturnWords := by
  intro b p g d s hready
  obtain ⟨hb, hp, hg, hd, -⟩ := typedEncodeIsTheGenericEncode
  refine ⟨⟨_, whenReady_finish hready _, ?_⟩, ⟨_, whenReady_finish hready _, ?_⟩, ⟨_, whenReady_finish hready _, ?_⟩,
    ⟨_, whenReady_finish hready _, ?_⟩⟩
  · rw [hb]
    exact toNat_layoutEncode (by simp [placedSum_cons, bitbltbufLayout, List.lookup_cons, Nat.add_assoc]) (by omega)
  · rw [hp]
    exact toNat_layoutEncode (by simp [placedSum_cons, trxposLayout, List.lookup_cons, Nat.add_assoc]) (by omega)
  · rw [hg]
    exact toNat_layoutEncode (by simp [placedSum_cons, trxregLayout, List.lookup_cons]) (by omega)
  · rw [hd]
    exact toNat_layoutEncode (by simp [placedSum_cons, trxdirLayout]) (by omega)

/-- Settles O51: the typed encode is the generic one, and the fields at full width reach no bit beyond 63. -/
theorem encTextureRegistersReturnWords : Obligations.EncTextureRegistersReturnWords := by
  intro t c l u s hready
  obtain ⟨-, -, -, -, ht, hc, hl, hu⟩ := typedEncodeIsTheGenericEncode
  refine ⟨⟨_, whenReady_finish hready _, ?_⟩, ⟨_, whenReady_finish hready _, ?_⟩, ⟨_, whenReady_finish hready _, ?_⟩,
    ⟨_, whenReady_finish hready _, ?_⟩⟩
  · rw [ht]
    exact toNat_layoutEncode (by simp [placedSum_cons, tex0Layout, List.lookup_cons, Nat.add_assoc]) (by omega)
  · rw [hc]
    exact toNat_layoutEncode (by simp [placedSum_cons, clampLayout, List.lookup_cons, Nat.add_assoc]) (by omega)
  · rw [hl]
    exact toNat_layoutEncode (by simp [placedSum_cons, tex1Layout, List.lookup_cons, Nat.add_assoc]) (by omega)
  · rw [hu]
    exact toNat_layoutEncode (by simp [placedSum_cons, tex2Layout, List.lookup_cons, Nat.add_assoc]) (by omega)

/-! ### The round-trip laws (R162) -/

/-- A field read from a word and put back in its place is the word under the field's mask. -/
theorem place_extract (v : Word64) (lo n : Nat) :
    place (v.extractLsb' lo n) lo = v &&& place (BitVec.allOnes n) lo := by
  ext i hi
  by_cases hlo : i < lo
  · simp [place, hlo]
  · simp [place, hlo, hi, Nat.add_sub_of_le (Nat.le_of_not_lt hlo), Bool.and_comm]

/-- Settles O52: what is put back field by field is the word under the OR of the fields' masks. -/
theorem registerRoundTripLaws : Obligations.RegisterRoundTripLaws := by
  refine ⟨⟨decodeBitbltbuf_encodeBitbltbuf, decodeTrxpos_encodeTrxpos, decodeTrxreg_encodeTrxreg,
    decodeTrxdir_encodeTrxdir, decodeTex0_encodeTex0, decodeClamp_encodeClamp, decodeTex1_encodeTex1,
    decodeTex2_encodeTex2⟩, fun v => ⟨?_, ?_, ?_, ?_, ?_, ?_, ?_, ?_⟩⟩
  · simp only [encodeBitbltbuf, decodeBitbltbuf, place_extract, ← BitVec.and_or_distrib_left]
    rfl
  · simp only [encodeTrxpos, decodeTrxpos, place_extract, ← BitVec.and_or_distrib_left]
    rfl
  · simp only [encodeTrxreg, decodeTrxreg, place_extract, ← BitVec.and_or_distrib_left]
    rfl
  · simp only [encodeTrxdir, decodeTrxdir, place_extract]
    rfl
  · simp only [encodeTex0, decodeTex0, place_extract, ← BitVec.and_or_distrib_left]
    exact BitVec.and_allOnes
  · simp only [encodeClamp, decodeClamp, place_extract, ← BitVec.and_or_distrib_left]
    rfl
  · simp only [encodeTex1, decodeTex1, place_extract, ← BitVec.and_or_distrib_left]
    rfl
  · simp only [encodeTex2, decodeTex2, place_extract, ← BitVec.and_or_distrib_left]
    rfl

/-! ### TEX2 from TEX0 (R179) -/

/-- TEX2's fields lie in a TEX0 word where TEX0 has them. -/
theorem decodeTex2_encodeTex0 (t : Tex0) : decodeTex2 (encodeTex0 t) = projectTex2 t := by
  simp (disch := decide) [decodeTex2, encodeTex0, projectTex2, extract_place_same, extract_place_disjoint]

/-- Settles O53: the projection is the TEX2 decode of the TEX0 word, so its encoding is that word under TEX2's mask. -/
theorem tex2FromTex0Projects : Obligations.Tex2FromTex0Projects := by
  intro t s hready
  obtain ⟨-, hmask⟩ := registerRoundTripLaws
  obtain ⟨-, -, -, -, -, -, -, htex2⟩ := hmask (encodeTex0 t)
  rw [decodeTex2_encodeTex0] at htex2
  exact ⟨whenReady_finish hready _, htex2⟩

end Sys2Proof.Machine
end

section
/-! PROOFS. Commands that write no byte, and CLEAR: which commands may change `MEM`, and the answers that no check and
no access stands before (42_transfer.md R213, R218, R219, R227). -/

namespace Sys2Proof.Machine

/-- A command that only answers leaves `MEM` as it was. -/
theorem mem_of_whenReady_finish {s t : State} {r : Result} (h : whenReady s (finish s r) = .next t) :
    t.mem = s.mem := by
  obtain ⟨-, rfl⟩ := whenReady_eq_next.mp h
  exact finish_mem s r

theorem mem_of_unsupportedTransfer {s t : State} (h : unsupportedTransfer s = .next t) : t.mem = s.mem := by
  obtain ⟨-, rfl⟩ := whenReady_eq_next.mp h
  exact answerUnsupported_mem s

/-- A checked command that only answers leaves `MEM` as it was, whether its checks pass or not (R257). -/
theorem mem_of_checked_finish {s t : State} {k : Option FaultRecord} {r : Result}
    (h : checked s k (finish s r) = .next t) : t.mem = s.mem := by
  obtain ⟨-, ⟨-, rfl⟩ | ⟨f, -, rfl⟩⟩ := checked_eq_next.mp h
  · exact finish_mem s r
  · exact takeFault_mem s f

theorem mem_of_execXferDown {psm : BitVec 6} {a : Surface} {r : Extent} {s t : State}
    (h : execXferDown psm a r s = .next t) : t.mem = s.mem := by
  unfold execXferDown at h
  split at h
  · exact mem_of_checked_finish h
  all_goals exact mem_of_unsupportedTransfer h

theorem mem_of_execXferDlidx {psm : BitVec 6} {a : Surface} {r : Extent} {c : ClutRef} {csa : BitVec 5}
    {alpha : Option Byte} {s t : State} (h : execXferDlidx psm a r c csa alpha s = .next t) : t.mem = s.mem := by
  unfold execXferDlidx at h
  split at h
  · exact mem_of_unsupportedTransfer h
  · exact mem_of_checked_finish h
  · exact mem_of_checked_finish h
  · exact mem_of_unsupportedTransfer h

/-- Settles O9: every other command answers or takes a fault, and neither touches `MEM`. -/
theorem onlyClearAndUploadsWriteMemory : Obligations.OnlyClearAndUploadsWriteMemory := by
  intro i s t hexec hclear h32 h8 h4 hxfer
  cases i with
  | clear => exact absurd rfl hclear
  | upload32 => exact absurd rfl h32
  | upload8 => exact absurd rfl h8
  | upload4 => exact absurd rfl h4
  | xferUp => exact absurd rfl hxfer
  | download32 | dlidx8 | dlidx4 => exact mem_of_checked_finish hexec
  | download8 | download4 => exact mem_of_unsupportedTransfer hexec
  | xferDown => exact mem_of_execXferDown hexec
  | xferDlidx => exact mem_of_execXferDlidx hexec
  | addr32 | addr8 | addr4
  | decBitbltbuf | decTrxpos | decTrxreg | decTrxdir | decTex0 | decClamp | decTex1 | decTex2
  | encBitbltbuf | encTrxpos | encTrxreg | encTrxdir | encTex0 | encClamp | encTex1 | encTex2
  | tex2FromTex0 => exact mem_of_whenReady_finish hexec

/-- Settles O28: the memory CLEAR leaves lists no byte, and an unlisted byte reads as zero. -/
theorem clearZeroesMemory : Obligations.ClearZeroesMemory :=
  fun _ hready => ⟨[], whenReady_ready _ hready, readByte_nil⟩

/-- Settles O35: both commands are answered before any check. -/
theorem directIndexDownloadsAreUnsupported : Obligations.DirectIndexDownloadsAreUnsupported :=
  fun _ _ _ hready => ⟨unsupportedTransfer_ready hready, unsupportedTransfer_ready hready⟩

end Sys2Proof.Machine
end

section
/-! PROOFS. UPLOAD32 and UPLOAD8: the last texel that touches a byte decides it, and every other byte is as it was
(42_transfer.md R205, R209, R214, R215). -/

namespace Sys2Proof.Machine

/-- A PSMCT32 texel lies at a multiple of four (R135). -/
theorem texel32_mod_four (a : Surface) (p : Texel) : texel32 a p % 4 = 0 :=
  (addr32AlignedAndWithinItsPage a.bp.toNat a.bw.toNat p.1 p.2).1

/-- Two PSMCT32 texels share no byte unless they have the same offset. -/
theorem not_texelTouches_psmct32 {a : Surface} {p q : Texel} {b : Nat} (hne : texel32 a q ≠ texel32 a p) (hb : b < 4) :
    ¬ texelTouches .psmct32 a q (texel32 a p + b) := by
  have hp := texel32_mod_four a p
  have hq := texel32_mod_four a q
  rintro ⟨hlo, hhi⟩
  omega

/-- Input byte `k` of a long enough stream (R9). -/
theorem some_inputByte {input : List Byte} {k : Nat} (h : k < input.length) : some (inputByte input k) = input[k]? := by
  rw [inputByte, List.getD_eq_getElem?_getD, List.getElem?_eq_getElem h, Option.getD_some]

/-- Byte `b` of the four that texel `t` takes is input byte `4t + b` (R209). -/
theorem inputWord_getD (input : List Byte) (t : Nat) {b : Nat} (hb : b < 4) :
    (inputWord input t).getD b 0 = inputByte input (4 * t + b) := by
  interval_cases b <;> rfl

theorem readByte_storeTexel_psmct32 {a : Surface} {input : List Byte} {p : Texel} {b : Nat} (t : Nat) (m : Memory)
    (hb : b < 4) : readByte (storeTexel .psmct32 a input t p m) (texel32 a p + b) = inputByte input (4 * t + b) := by
  have hin : texel32 a p ≤ texel32 a p + b ∧ texel32 a p + b < texel32 a p + (inputWord input t).length :=
    ⟨Nat.le_add_right _ _, Nat.add_lt_add_left hb _⟩
  rw [storeTexel, readByte_writeBytes, if_pos hin, Nat.add_sub_cancel_left, inputWord_getD input t hb]

section
variable {f : Format} {a : Surface} {input : List Byte} {b : Nat}

/-- A byte that no later texel touches holds what the texel's own write left there (R205). -/
theorem readByte_storeTexels_split {before after : List Texel} {p : Texel} (h : ∀ q ∈ after, ¬ texelTouches f a q b)
    (t : Nat) (m : Memory) :
    readByte (storeTexels f a input t (before ++ p :: after) m) b =
      readByte (storeTexel f a input (t + before.length) p (storeTexels f a input t before m)) b := by
  rw [storeTexels_append, storeTexels, readByte_storeTexels_ne h]

/-- The same in a rectangle: the write of the texel in column `i` and row `j`, on the memory the texels before it left,
decides every byte that no later texel touches (R201, R205). -/
theorem readByte_storeTexels_texelAt {r : Extent} {i j : Nat} (hi : i < r.w.toNat) (hj : j < r.h.toNat)
    (hlast : ∀ i' j', i' < r.w.toNat → j' < r.h.toNat → j * r.w.toNat + i < j' * r.w.toNat + i' →
      ¬ texelTouches f a (texelAt a i' j') b) (m : Memory) :
    ∃ m', readByte (storeTexels f a input 0 (texelsOf a r) m) b =
      readByte (storeTexel f a input (j * r.w.toNat + i) (texelAt a i j) m') b := by
  obtain ⟨before, after, hsplit, hlen, hafter⟩ := texelsOf_split a hi hj
  have hlater : ∀ q ∈ after, ¬ texelTouches f a q b := by
    intro q hq
    obtain ⟨i', j', hi', hj', hlt, rfl⟩ := hafter q hq
    exact hlast i' j' hi' hj' hlt
  rw [hsplit, readByte_storeTexels_split hlater, Nat.zero_add, hlen]
  exact ⟨_, rfl⟩

/-- A byte that no texel of the rectangle touches is as it was (R204). -/
theorem readByte_storeTexels_texelsOf_ne {r : Extent}
    (h : ∀ i j, i < r.w.toNat → j < r.h.toNat → ¬ texelTouches f a (texelAt a i j) b) (m : Memory) :
    readByte (storeTexels f a input 0 (texelsOf a r) m) b = readByte m b := by
  refine readByte_storeTexels_ne (fun p hp => ?_) 0 m
  obtain ⟨i, j, hi, hj, rfl⟩ := mem_texelsOf.mp hp
  exact h i j hi hj

end

/-- Settles O30: texels lie at multiples of four, so a later texel at another offset touches none of the four bytes. -/
theorem upload32WritesItsTexels : Obligations.Upload32WritesItsTexels := by
  rintro a r s w h rfl rfl hready hcoords hfits hinput
  refine ⟨_, upload_completes .upload32 hready hcoords hfits hinput, ?_, ?_⟩
  · intro i j hi hj hlast b hb
    have hlt : j * r.w.toNat + i < r.w.toNat * r.h.toNat := texelIndex_lt hi hj
    obtain ⟨m', hm'⟩ := readByte_storeTexels_texelAt (f := .psmct32) (input := s.input) hi hj
      (fun i' j' hi' hj' hlater => not_texelTouches_psmct32 (hlast i' j' hi' hj' hlater) hb) s.mem
    rw [hm', readByte_storeTexel_psmct32 _ m' hb, some_inputByte (by omega)]
  · exact fun addr haddr => readByte_storeTexels_texelsOf_ne haddr s.mem

/-- Settles O31: each write is of one byte, and the last at an offset stays. -/
theorem upload8WritesItsTexels : Obligations.Upload8WritesItsTexels := by
  rintro a r s w h rfl rfl hready hcoords hfits hinput
  refine ⟨_, upload_completes .upload8 hready hcoords hfits hinput, ?_, ?_⟩
  · intro i j hi hj hlast
    have hlt : j * r.w.toNat + i < r.w.toNat * r.h.toNat := texelIndex_lt hi hj
    obtain ⟨m', hm'⟩ := readByte_storeTexels_texelAt (f := .psmt8) (input := s.input) hi hj
      (fun i' j' hi' hj' hlater => (hlast i' j' hi' hj' hlater).symm) s.mem
    rw [hm', storeTexel, readByte_writeByte_self, some_inputByte (hlt.trans_le hinput)]
  · exact fun addr haddr => readByte_storeTexels_texelsOf_ne (f := .psmt8) (a := a) (b := addr)
      (fun i j hi hj => (haddr i j hi hj).symm) s.mem

end Sys2Proof.Machine
end

section
/-! PROOFS. DOWNLOAD32, its round trip after UPLOAD32, and DLIDX8 (42_transfer.md R204, R207, R210, R212, R217, R220;
90_conflicts.md C8). -/

namespace Sys2Proof.Machine

/-! ### DOWNLOAD32 -/

/-- A 32-bit download whose coordinates and surface meet their limits completes (R207, R217). -/
theorem download_completes {a : Surface} {r : Extent} {s : State} (op : Op) (hready : s.fault = none)
    (hcoords : coordsFit a r) (hfits : surfaceFits .psmct32 a r) :
    download op a r s =
      .next (finish s (.bytes ((texelsOf a r).flatMap fun p => readBytes s.mem (texel32 a p) 4))) :=
  checked_eq_next.mpr
    ⟨hready, .inl ⟨transferFault_eq_none.mpr ⟨hcoords, texelAccess_inRange.mpr hfits, Nat.le_refl 0⟩, rfl⟩⟩

theorem getElem?_readBytes (m : Memory) (o : Nat) {n b : Nat} (hb : b < n) :
    (readBytes m o n)[b]? = some (readByte m (o + b)) := by
  rw [readBytes, List.getElem?_map, List.getElem?_range hb, Option.map_some]

/-- Settles O33: texel number `t` gives bytes `4t` to `4t + 3`, read from its offset on. -/
theorem download32ReturnsItsTexels : Obligations.Download32ReturnsItsTexels := by
  rintro a r s w h rfl rfl hready hcoords hfits
  have hlen : ∀ p, (readBytes s.mem (texel32 a p) 4).length = 4 := fun p => length_readBytes s.mem (texel32 a p) 4
  refine ⟨_, download_completes .download32 hready hcoords hfits, ?_, ?_⟩
  · rw [length_flatMap_of_length hlen, length_texelsOf, texelCount, Nat.mul_assoc]
  · intro i j b hi hj hb
    rw [getElem?_flatMap_of_length hlen (getElem?_texelsOf_texelAt a hi hj) hb, getElem?_readBytes _ _ hb]

/-- Byte `k` of a download is byte `b` of the texel in some column `i` and row `j` (R200, R201). -/
theorem exists_texel_of_byte {w h k : Nat} (hk : k < 4 * (w * h)) :
    ∃ i j b, i < w ∧ j < h ∧ b < 4 ∧ k = 4 * (j * w + i) + b := by
  have hlt : k / 4 < w * h := Nat.div_lt_of_lt_mul hk
  have hw : 0 < w := Nat.pos_of_ne_zero fun h0 => by simp [h0] at hlt
  refine ⟨k / 4 % w, k / 4 / w, k % 4, Nat.mod_lt _ hw, Nat.div_lt_of_lt_mul hlt, Nat.mod_lt _ (by decide), ?_⟩
  rw [Nat.div_add_mod', Nat.div_add_mod]

/-- Settles O34: where ADDR32 is one to one no later texel has a texel's offset, so the download reads at each offset
the four bytes the upload left there. -/
theorem uploadThenDownloadRoundTrip : Obligations.UploadThenDownloadRoundTrip := by
  intro a r s hready hcoords hfits hinput hinj
  obtain ⟨m, hup, hwritten, -⟩ := upload32WritesItsTexels a r s _ _ rfl rfl hready hcoords hfits hinput
  obtain ⟨out, hdown, hlen, hread⟩ := download32ReturnsItsTexels a r
    { s with mem := m, results := s.results ++ [⟨.ok, .nothing⟩] } _ _ rfl rfl hready hcoords hfits
  rw [Nat.mul_assoc] at hlen
  have hout : out = s.input.take (4 * (r.w.toNat * r.h.toNat)) := by
    refine List.ext_getElem? fun k => ?_
    rcases Nat.lt_or_ge k (4 * (r.w.toNat * r.h.toNat)) with hk | hk
    · obtain ⟨i, j, b, hi, hj, hb, rfl⟩ := exists_texel_of_byte hk
      have hlast : ∀ i' j', i' < r.w.toNat → j' < r.h.toNat → j * r.w.toNat + i < j' * r.w.toNat + i' →
          texel32 a (texelAt a i' j') ≠ texel32 a (texelAt a i j) := by
        intro i' j' hi' hj' hlater heq
        obtain ⟨rfl, rfl⟩ := hinj i' j' i j hi' hj' hi hj heq
        exact Nat.lt_irrefl _ hlater
      rw [hread i j b hi hj hb, hwritten i j hi hj hlast b hb, List.getElem?_take_of_lt hk]
    · rw [List.getElem?_eq_none (hlen.trans_le hk), List.getElem?_take_eq_none hk]
  refine ⟨_, _, hup, hdown, ?_⟩
  rw [hout, List.append_assoc, List.singleton_append]

/-! ### DLIDX8 -/

/-- The CLUT cell of an 8-bit index (R210). -/
theorem clut8_eq (i : Byte) :
    clut8 i = (i.toNat % 8 + 8 * (i.toNat / 16 % 2), 2 * (i.toNat / 32) + i.toNat / 8 % 2) := by
  have hcolumn : i.toNat &&& 7 = i.toNat % 8 := and_mask i.toNat 3
  have hrow : (i.toNat &&& 0xE0) >>> 4 = 2 * (i.toNat / 32) := by
    revert i
    decide +kernel
  simp only [clut8, toNat_ite_getLsbD, hcolumn, hrow, Nat.one_mul, Nat.reducePow]

/-- The index and CLUT accesses of DLIDX8 are in range where its surface and its CLUT cells lie below `CAP` (R204). -/
theorem indexAccesses8_inRange {m : Memory} {a : Surface} {r : Extent} {c : ClutRef} (hfits : surfaceFits .psmt8 a r)
    (hclut : clutFits8 m a r c) : ∀ p ∈ texelsOf a r, ∀ k ∈ indexAccesses8 m a c p, k.last < Config.cap := by
  intro p hp k hk
  obtain ⟨i, j, hi, hj, rfl⟩ := mem_texelsOf.mp hp
  obtain rfl | rfl : k = _ ∨ k = _ := by simpa [indexAccesses8] using hk
  · exact hfits i j hi hj
  · exact hclut i j hi hj

/-- An 8-bit indexed download whose coordinates and accesses meet their limits completes (R220). -/
theorem indexedDownload8_completes {a : Surface} {r : Extent} {c : ClutRef} {s : State} (op : Op) (alpha : Option Byte)
    (hready : s.fault = none) (hcoords : coordsFit a r) (hfits : surfaceFits .psmt8 a r)
    (hclut : clutFits8 s.mem a r c) :
    indexedDownload8 op a r c alpha s =
      .next (finish s (.bytes ((texelsOf a r).flatMap fun p => clutRead s.mem c alpha (cellOfTexel8 s.mem a p)))) :=
  checked_eq_next.mpr
    ⟨hready, .inl ⟨transferFault_eq_none.mpr ⟨hcoords, indexAccesses8_inRange hfits hclut, Nat.le_refl 0⟩, rfl⟩⟩

/-- Settles O36: texel number `t` gives bytes `4t` to `4t + 3`, the color of the CLUT cell its index names. -/
theorem dlidx8ResolvesItsTexels : Obligations.Dlidx8ResolvesItsTexels := by
  rintro a r c alpha s w h rfl rfl hready hcoords hfits hclut
  have hlen : ∀ p, (clutRead s.mem c alpha (cellOfTexel8 s.mem a p)).length = 4 := fun _ => rfl
  refine ⟨_, indexedDownload8_completes .dlidx8 alpha hready hcoords hfits hclut, ?_, ?_⟩
  · rw [length_flatMap_of_length hlen, length_texelsOf, texelCount, Nat.mul_assoc]
  · rintro i j k o hi hj rfl rfl
    refine clutRead_color (p := cellOfTexel8 s.mem a (texelAt a i j))
      (fun b hb => getElem?_flatMap_of_length hlen (getElem?_texelsOf_texelAt a hi hj) hb) ?_
    rw [cellOfTexel8, clut8_eq, clutCell]

end Sys2Proof.Machine
end

section
/-! PROOFS. Transfers whose rectangle is empty, and transfers dispatched by format: each completes as the transfer it
dispatches to, and a fault names the `OP` of the command itself (42_transfer.md R203, R222 to R224; 60_exceptions.md
R252). -/

namespace Sys2Proof.Machine

/-! ### Empty rectangles (R203) -/

section
variable {a : Surface} {r : Extent}

theorem texelsOf_of_empty (hempty : r.w.toNat = 0 ∨ r.h.toNat = 0) : texelsOf a r = [] :=
  List.eq_nil_of_length_eq_zero ((length_texelsOf a r).trans (Nat.mul_eq_zero.mpr hempty))

theorem texelCount_of_empty (hempty : r.w.toNat = 0 ∨ r.h.toNat = 0) : texelCount r = 0 :=
  Nat.mul_eq_zero.mpr hempty

/-- A transfer of no texel passes its checks within the coordinate limit, wherever its buffers lie. -/
theorem transferFault_of_empty {op : BitVec 8} {accesses : Texel → List Access} {supplied : Nat}
    (hcoords : coordsFit a r) (hempty : r.w.toNat = 0 ∨ r.h.toNat = 0) :
    transferFault op a r accesses supplied 0 = none :=
  transferFault_eq_none.mpr ⟨hcoords, by simp [texelsOf_of_empty hempty], Nat.zero_le supplied⟩

theorem upload_of_empty {s : State} (f : Format) (op : Op) (hready : s.fault = none) (hcoords : coordsFit a r)
    (hempty : r.w.toNat = 0 ∨ r.h.toNat = 0) : upload f op a r s = .next (finish s .nothing) := by
  have hneed : inputNeed f (texelCount r) = 0 := by cases f <;> rw [texelCount_of_empty hempty] <;> rfl
  rw [upload, hneed, transferFault_of_empty hcoords hempty, texelsOf_of_empty hempty]
  exact whenReady_ready _ hready

/-- A checked command that returns a piece for each texel returns the empty stream for none. -/
theorem checked_flatMap_of_empty {op : BitVec 8} {accesses : Texel → List Access} {s : State}
    (piece : Texel → List Byte) (hready : s.fault = none) (hcoords : coordsFit a r)
    (hempty : r.w.toNat = 0 ∨ r.h.toNat = 0) :
    checked s (transferFault op a r accesses 0 0) (finish s (.bytes ((texelsOf a r).flatMap piece))) =
      .next (finish s (.bytes [])) := by
  rw [transferFault_of_empty hcoords hempty, texelsOf_of_empty hempty]
  exact whenReady_ready _ hready

end

/-- Settles O47: with no texel the checks after the coordinate limit have nothing to find, and nothing is moved. -/
theorem emptyRectangleIsANoOp : Obligations.EmptyRectangleIsANoOp := by
  intro a r c csa alpha s i hready hcoords hempty
  constructor
  · rintro (rfl | rfl | rfl)
    · exact upload_of_empty .psmct32 .upload32 hready hcoords hempty
    · exact upload_of_empty .psmt8 .upload8 hready hcoords hempty
    · exact upload_of_empty .psmt4 .upload4 hready hcoords hempty
  · rintro (rfl | rfl | rfl) <;> exact checked_flatMap_of_empty _ hready hcoords hempty

/-! ### Dispatch by format (R222 to R224) -/

section
variable {psm : BitVec 6} (a : Surface) (r : Extent) (c : ClutRef) (csa : BitVec 5) (alpha : Option Byte) (s : State)

theorem exec_xferUp_of_psmFormat {f : Format} (h : psmFormat psm = some f) :
    exec (.xferUp psm a r) s = upload f .xferUp a r s := by
  simp only [exec, execXferUp, h]

theorem exec_xferDown_of_psmct32 (h : psmFormat psm = some .psmct32) :
    exec (.xferDown psm a r) s = download .xferDown a r s := by
  simp only [exec, execXferDown, h]

theorem exec_xferDlidx_of_psmt8 (h : psmFormat psm = some .psmt8) :
    exec (.xferDlidx psm a r c csa alpha) s = indexedDownload8 .xferDlidx a r c alpha s := by
  simp only [exec, execXferDlidx, h]

theorem exec_xferDlidx_of_psmt4 (h : psmFormat psm = some .psmt4) :
    exec (.xferDlidx psm a r c csa alpha) s = indexedDownload4 .xferDlidx a r c csa alpha s := by
  simp only [exec, execXferDlidx, h]

end

theorem psmFormat_psmct32 : psmFormat 0x00 = some .psmct32 := psmFormat_eq _

theorem psmFormat_psmt8 : psmFormat 0x13 = some .psmt8 := psmFormat_eq _

theorem psmFormat_psmt4 : psmFormat 0x14 = some .psmt4 := psmFormat_eq _

/-- XFER_UP and the upload of its format complete alike (R222). -/
theorem exec_xferUp_completes {psm : BitVec 6} {f : Format} {a : Surface} {r : Extent} {s : State} (op : Op)
    (hpsm : psmFormat psm = some f) (hready : s.fault = none) (hcoords : coordsFit a r) (hfits : surfaceFits f a r)
    (hneed : inputNeed f (texelCount r) ≤ s.input.length) :
    ∃ t, exec (.xferUp psm a r) s = .next t ∧ upload f op a r s = .next t ∧
      t.results = s.results ++ [⟨.ok, .nothing⟩] :=
  ⟨_, (exec_xferUp_of_psmFormat a r s hpsm).trans (upload_completes .xferUp hready hcoords hfits hneed),
    upload_completes op hready hcoords hfits hneed, finish_results _ _⟩

/-- Settles O38: each format's code dispatches to its upload, and both meet the same limits. -/
theorem xferUpBehavesAsItsUpload : Obligations.XferUpBehavesAsItsUpload := by
  rintro a r s _ rfl hready hcoords
  refine ⟨fun hfits hinput => ?_, fun hfits hinput => ?_, fun hfits hinput => ?_⟩
  · exact exec_xferUp_completes .upload32 psmFormat_psmct32 hready hcoords hfits hinput
  · exact exec_xferUp_completes .upload8 psmFormat_psmt8 hready hcoords hfits hinput
  · exact exec_xferUp_completes .upload4 psmFormat_psmt4 hready hcoords hfits
      (by rwa [inputNeed, texelCount, Nat.shiftRight_one])

/-- Settles O39: both commands complete with the same bytes. -/
theorem xferDownBehavesAsDownload32 : Obligations.XferDownBehavesAsDownload32 := by
  intro a r s hready hcoords hfits
  exact ⟨_, _,
    (exec_xferDown_of_psmct32 a r s psmFormat_psmct32).trans (download_completes .xferDown hready hcoords hfits),
    download_completes .download32 hready hcoords hfits, rfl⟩

/-- Settles O40: both commands complete with the same colors, for PSMT8 and for PSMT4. -/
theorem xferDlidxBehavesAsItsDownload : Obligations.XferDlidxBehavesAsItsDownload := by
  intro a r c csa alpha s hready hcoords
  refine ⟨fun hfits hclut => ?_, fun hfits hclut => ?_⟩
  · exact ⟨_, _, (exec_xferDlidx_of_psmt8 a r c csa alpha s psmFormat_psmt8).trans
      (indexedDownload8_completes .xferDlidx alpha hready hcoords hfits hclut),
      indexedDownload8_completes .dlidx8 alpha hready hcoords hfits hclut, rfl⟩
  · exact ⟨_, _, (exec_xferDlidx_of_psmt4 a r c csa alpha s psmFormat_psmt4).trans
      (indexedDownload4_completes .xferDlidx alpha hready hcoords hfits hclut),
      indexedDownload4_completes .dlidx4 alpha hready hcoords hfits hclut, rfl⟩

/-! ### The `OP` a fault names (R252) -/

/-- A fault record under another command's `OP`. -/
def FaultRecord.underOp (op : BitVec 8) (k : FaultRecord) : FaultRecord := { k with op := op }

section
variable (op op' : BitVec 8) (a : Surface) (r : Extent) (accesses : Texel → List Access) (supplied need : Nat)

theorem coordFault_underOp : coordFault op a r = (coordFault op' a r).map (FaultRecord.underOp op) := by
  unfold coordFault
  split <;> rfl

theorem rangeFault_underOp (ps : List Texel) :
    rangeFault op accesses ps = (rangeFault op' accesses ps).map (FaultRecord.underOp op) := by
  induction ps with
  | nil => rfl
  | cons p ps ih =>
    unfold rangeFault
    split
    · rfl
    · exact ih

theorem inputFault_underOp :
    inputFault op supplied need = (inputFault op' supplied need).map (FaultRecord.underOp op) := by
  unfold inputFault
  split <;> rfl

/-- The checks of a transfer look at the `OP` only to name it in the record. -/
theorem transferFault_underOp :
    transferFault op a r accesses supplied need =
      (transferFault op' a r accesses supplied need).map (FaultRecord.underOp op) := by
  unfold transferFault
  rw [coordFault_underOp op op', rangeFault_underOp op op', inputFault_underOp op op']
  cases coordFault op' a r with
  | some k => rfl
  | none => cases rangeFault op' accesses (texelsOf a r) <;> rfl

end

/-- The same transfer under another `OP` goes to the same state, but for the `OP` that a fault it takes names. -/
theorem checked_transferFault_underOp {s done : State} {op op' : BitVec 8} {a : Surface} {r : Extent}
    {accesses : Texel → List Access} {supplied need : Nat} (hready : s.fault = none) (hdone : done.fault = none) :
    ∃ t u, checked s (transferFault op a r accesses supplied need) done = .next t ∧
      checked s (transferFault op' a r accesses supplied need) done = .next u ∧
      t = { u with fault := u.fault.map (FaultRecord.underOp op) } := by
  rw [transferFault_underOp op op']
  cases transferFault op' a r accesses supplied need with
  | none =>
    refine ⟨done, done, whenReady_ready _ hready, whenReady_ready _ hready, ?_⟩
    rw [hdone, Option.map_none, ← hdone]
  | some k => exact ⟨_, _, whenReady_ready _ hready, whenReady_ready _ hready, rfl⟩

/-- Settles O42: a dispatched transfer makes the checks of its target and has its effect; only the `OP` handed to the
checks differs. -/
theorem dispatchedFaultsNameTheirOwnOp : Obligations.DispatchedFaultsNameTheirOwnOp := by
  rintro a r c csa alpha s i j op hready (⟨rfl, rfl, rfl⟩ | ⟨rfl, rfl, rfl⟩ | ⟨rfl, rfl, rfl⟩ | ⟨rfl, rfl, rfl⟩ |
    ⟨rfl, rfl, rfl⟩ | ⟨rfl, rfl, rfl⟩)
  · rw [exec_xferUp_of_psmFormat a r s psmFormat_psmct32]
    exact checked_transferFault_underOp hready hready
  · rw [exec_xferUp_of_psmFormat a r s psmFormat_psmt8]
    exact checked_transferFault_underOp hready hready
  · rw [exec_xferUp_of_psmFormat a r s psmFormat_psmt4]
    exact checked_transferFault_underOp hready hready
  · rw [exec_xferDown_of_psmct32 a r s psmFormat_psmct32]
    exact checked_transferFault_underOp hready hready
  · rw [exec_xferDlidx_of_psmt8 a r c csa alpha s psmFormat_psmt8]
    exact checked_transferFault_underOp hready hready
  · rw [exec_xferDlidx_of_psmt4 a r c csa alpha s psmFormat_psmt4]
    exact checked_transferFault_underOp hready hready

end Sys2Proof.Machine
end

section
/-! PROOFS. Transfers that fault: each check in its order, and the first texel with an access at or beyond `CAP`
(42_transfer.md R202, R204, R207, R208; 60_exceptions.md R252 to R258). -/

namespace Sys2Proof.Machine

/-! ### The checks in their order (R258) -/

/-- A checked command whose checks find a fault takes it and changes nothing else. -/
theorem checked_of_fault {s : State} {k : Option FaultRecord} {f : FaultRecord} (done : State)
    (hready : s.fault = none) (hk : k = some f) : checked s k done = .next (takeFault s f) :=
  checked_eq_next.mpr ⟨hready, .inr ⟨f, hk, rfl⟩⟩

section
variable {op : BitVec 8} {a : Surface} {r : Extent} {accesses : Texel → List Access} {supplied need : Nat}

/-- Past the coordinate limit no other check is made (R202, R254). -/
theorem transferFault_of_coordOverflow (h : 2048 < a.x.toNat + r.w.toNat ∨ 2048 < a.y.toNat + r.h.toNat) :
    transferFault op a r accesses supplied need =
      some ⟨.coordOverflow, op, a.x.toNat + r.w.toNat, a.y.toNat + r.h.toNat, 0⟩ := by
  have hcoord : coordFault op a r = some ⟨.coordOverflow, op, a.x.toNat + r.w.toNat, a.y.toNat + r.h.toNat, 0⟩ :=
    if_pos h
  simp only [transferFault, hcoord]

/-- The capacity check comes before the input length (R258). -/
theorem transferFault_of_rangeFault {f : FaultRecord} (hcoords : coordsFit a r)
    (h : rangeFault op accesses (texelsOf a r) = some f) :
    transferFault op a r accesses supplied need = some f := by
  simp only [transferFault, coordFault_eq_none.mpr hcoords, h]

theorem transferFault_of_inputUnderrun (hcoords : coordsFit a r)
    (hrange : ∀ p ∈ texelsOf a r, ∀ k ∈ accesses p, k.last < Config.cap) (h : supplied < need) :
    transferFault op a r accesses supplied need = some ⟨.inputUnderrun, op, supplied, need, 0⟩ := by
  simp only [transferFault, coordFault_eq_none.mpr hcoords, rangeFault_eq_none.mpr hrange, inputFault, if_pos h]

end

/-- Settles O43: the coordinate check is the first of every transfer. -/
theorem coordOverflowFaults : Obligations.CoordOverflowFaults := by
  rintro a r c csa alpha s i op hready hover (⟨rfl, rfl⟩ | ⟨rfl, rfl⟩ | ⟨rfl, rfl⟩ | ⟨rfl, rfl⟩ | ⟨rfl, rfl⟩ |
    ⟨rfl, rfl⟩) <;> exact checked_of_fault _ hready (transferFault_of_coordOverflow hover)

/-- Settles O46: the surface fits, so the input length is the first check to fail. -/
theorem inputUnderrunFaults : Obligations.InputUnderrunFaults := by
  rintro a r s i op f _ need hready hcoords hfits rfl (⟨rfl, rfl, rfl, rfl⟩ | ⟨rfl, rfl, rfl, rfl⟩ |
    ⟨rfl, rfl, rfl, rfl⟩) hshort
  all_goals
    exact checked_of_fault _ hready (transferFault_of_inputUnderrun hcoords (texelAccess_inRange.mpr hfits) hshort)

/-! ### The first texel out of range (R207) -/

/-- The capacity check reports the first access out of range of the first texel that has one. -/
theorem rangeFault_of_split {op : BitVec 8} {accesses : Texel → List Access} {before after : List Texel} {p : Texel}
    {k : Access} (hbefore : ∀ q ∈ before, ∀ k ∈ accesses q, k.last < Config.cap)
    (hk : (accesses p).find? (fun k => !accessInRange k) = some k) :
    rangeFault op accesses (before ++ p :: after) = some ⟨.outOfRange, op, p.1, p.2, k.first⟩ := by
  induction before with
  | nil => simp only [List.nil_append, rangeFault, hk]
  | cons q qs ih =>
    obtain ⟨hq, hqs⟩ := List.forall_mem_cons.mp hbefore
    have hnone : (accesses q).find? (fun k => !accessInRange k) = none :=
      List.find?_eq_none.mpr fun k hmem => by simp [accessInRange, hq k hmem]
    simp only [List.cons_append, rangeFault, hnone, ih hqs]

/-- The texels at the front of a rectangle's list have the smaller numbers (R200, R201). -/
theorem mem_front_of_texelsOf {a : Surface} {r : Extent} {front rest : List Texel} {q : Texel}
    (hsplit : texelsOf a r = front ++ rest) (hq : q ∈ front) :
    ∃ x y, x < r.w.toNat ∧ y < r.h.toNat ∧ y * r.w.toNat + x < front.length ∧ q = texelAt a x y := by
  obtain ⟨n, hn⟩ := List.mem_iff_getElem?.mp hq
  have hlt : n < front.length := (List.getElem?_eq_some_iff.mp hn).1
  have hcount : n < texelCount r := by
    rw [← length_texelsOf a r, hsplit, List.length_append]
    omega
  have hw : 0 < r.w.toNat := Nat.pos_of_ne_zero fun h0 => by simp [texelCount, h0] at hcount
  have hat := getElem?_texelsOf a r hcount
  rw [hsplit, List.getElem?_append_left hlt, hn] at hat
  exact ⟨_, _, Nat.mod_lt _ hw, Nat.div_lt_of_lt_mul hcount, by rwa [Nat.div_add_mod'], Option.some.inj hat⟩

/-- In a rectangle: the texel in column `x` and row `y` is reported where no earlier one has an access out of range. -/
theorem rangeFault_texelAt {op : BitVec 8} {a : Surface} {r : Extent} {accesses : Texel → List Access} {x y : Nat}
    {k : Access} (hx : x < r.w.toNat) (hy : y < r.h.toNat)
    (hk : (accesses (texelAt a x y)).find? (fun k => !accessInRange k) = some k)
    (hbefore : ∀ x' y', x' < r.w.toNat → y' < r.h.toNat → y' * r.w.toNat + x' < y * r.w.toNat + x →
      ∀ k ∈ accesses (texelAt a x' y'), k.last < Config.cap) :
    rangeFault op accesses (texelsOf a r) = some ⟨.outOfRange, op, a.x.toNat + x, a.y.toNat + y, k.first⟩ := by
  obtain ⟨before, after, hsplit, hlen, -⟩ := texelsOf_split a hx hy
  rw [hsplit]
  refine rangeFault_of_split (fun q hq => ?_) hk
  obtain ⟨x', y', hx', hy', hlt, rfl⟩ := mem_front_of_texelsOf hsplit hq
  exact hbefore x' y' hx' hy' (hlen ▸ hlt)

/-- A word at a PSMCT32 offset lies below `CAP` when its first byte does (R135). -/
theorem addr32_add_three_lt_cap {bp bw x y : Nat} : addr32 bp bw x y + 3 < 4194304 ↔ addr32 bp bw x y < 4194304 := by
  have haligned := (addr32AlignedAndWithinItsPage bp bw x y).1
  omega

/-- The byte at which the access of a texel starts (R204, R207). -/
def texelStart (f : Format) (a : Surface) (p : Texel) : Nat :=
  match f with
  | .psmct32 => texel32 a p
  | .psmt8 => texel8 a p
  | .psmt4 => texel4 a p / 2

/-- A texel of an upload or a 32-bit download makes one access, in range exactly when its first byte is. -/
theorem texelAccess_eq_singleton (f : Format) (a : Surface) (p : Texel) :
    ∃ k, texelAccess f a p = [k] ∧ k.first = texelStart f a p ∧
      (k.last < Config.cap ↔ texelStart f a p < 4194304) := by
  cases f with
  | psmct32 => exact ⟨_, rfl, rfl, addr32_add_three_lt_cap⟩
  | psmt8 => exact ⟨_, rfl, rfl, Iff.rfl⟩
  | psmt4 => exact ⟨_, rfl, rfl, Iff.rfl⟩

theorem transferFault_of_texelStart {f : Format} {op : BitVec 8} {a : Surface} {r : Extent} {supplied need x y : Nat}
    (hcoords : coordsFit a r) (hx : x < r.w.toNat) (hy : y < r.h.toNat)
    (hout : 4194304 ≤ texelStart f a (texelAt a x y))
    (hbefore : ∀ x' y', x' < r.w.toNat → y' < r.h.toNat → y' * r.w.toNat + x' < y * r.w.toNat + x →
      texelStart f a (texelAt a x' y') < 4194304) :
    transferFault op a r (texelAccess f a) supplied need =
      some ⟨.outOfRange, op, a.x.toNat + x, a.y.toNat + y, texelStart f a (texelAt a x y)⟩ := by
  obtain ⟨k, hk, hfirst, hlast⟩ := texelAccess_eq_singleton f a (texelAt a x y)
  have hbad : accessInRange k = false := decide_eq_false (mt hlast.mp (Nat.not_lt.mpr hout))
  rw [← hfirst]
  refine transferFault_of_rangeFault hcoords (rangeFault_texelAt hx hy (by simp [hk, hbad]) ?_)
  intro x' y' hx' hy' hlt k' hk'
  obtain ⟨k'', heq, -, hin⟩ := texelAccess_eq_singleton f a (texelAt a x' y')
  rw [heq, List.mem_singleton] at hk'
  exact hk' ▸ hin.mpr (hbefore x' y' hx' hy' hlt)

/-- Settles O44: one access for each texel, and the capacity check takes them in texel order. -/
theorem outOfRangeFaults : Obligations.OutOfRangeFaults := by
  rintro a r s i op start x y hready hcoords hx hy (⟨rfl, rfl, rfl⟩ | ⟨rfl, rfl, rfl⟩ | ⟨rfl, rfl, rfl⟩ |
    ⟨rfl, rfl, rfl⟩) hout hbefore
  · exact checked_of_fault _ hready (transferFault_of_texelStart (f := .psmct32) hcoords hx hy hout hbefore)
  · exact checked_of_fault _ hready (transferFault_of_texelStart (f := .psmt8) hcoords hx hy hout hbefore)
  · exact checked_of_fault _ hready (transferFault_of_texelStart (f := .psmt4) hcoords hx hy hout hbefore)
  · exact checked_of_fault _ hready (transferFault_of_texelStart (f := .psmct32) hcoords hx hy hout hbefore)

/-! ### Indexed downloads: the index access, then the CLUT access (R204, R258) -/

/-- Of a byte access and an aligned word access the first out of range is the byte, where that is. -/
theorem find?_index_clut {i o : Nat} (hword : o + 3 < 4194304 ↔ o < 4194304) (hout : 4194304 ≤ i ∨ 4194304 ≤ o) :
    [byteAccess i, wordAccess o].find? (fun k => !accessInRange k) =
      some (if 4194304 ≤ i then byteAccess i else wordAccess o) := by
  by_cases hi : 4194304 ≤ i
  · have hbad : accessInRange (byteAccess i) = false := decide_eq_false (Nat.not_lt.mpr hi)
    simp [hbad, hi]
  · have hgood : accessInRange (byteAccess i) = true := decide_eq_true (Nat.not_le.mp hi)
    have hbad : accessInRange (wordAccess o) = false :=
      decide_eq_false (mt hword.mp (Nat.not_lt.mpr (hout.resolve_left hi)))
    simp [hgood, hbad, hi]

theorem transferFault_of_index_clut {op : BitVec 8} {a : Surface} {r : Extent} {c : ClutRef}
    {accesses : Texel → List Access} {index : Texel → Nat} {cell : Texel → Texel} {x y : Nat} (hcoords : coordsFit a r)
    (hx : x < r.w.toNat) (hy : y < r.h.toNat)
    (hacc : ∀ p, accesses p = [byteAccess (index p), wordAccess (clutCell c (cell p))])
    (hout : 4194304 ≤ index (texelAt a x y) ∨ 4194304 ≤ clutCell c (cell (texelAt a x y)))
    (hbefore : ∀ x' y', x' < r.w.toNat → y' < r.h.toNat → y' * r.w.toNat + x' < y * r.w.toNat + x →
      index (texelAt a x' y') < 4194304 ∧ clutCell c (cell (texelAt a x' y')) < 4194304) :
    transferFault op a r accesses 0 0 =
      some ⟨.outOfRange, op, a.x.toNat + x, a.y.toNat + y,
        if 4194304 ≤ index (texelAt a x y) then index (texelAt a x y) else clutCell c (cell (texelAt a x y))⟩ := by
  have hk := (congrArg _ (hacc (texelAt a x y))).trans (find?_index_clut addr32_add_three_lt_cap hout)
  have hrange := rangeFault_texelAt (op := op) hx hy hk fun x' y' hx' hy' hlt k hk' => by
    obtain ⟨hindex, hclut⟩ := hbefore x' y' hx' hy' hlt
    rw [hacc] at hk'
    obtain rfl | rfl : k = _ ∨ k = _ := by simpa using hk'
    · exact hindex
    · exact addr32_add_three_lt_cap.mpr hclut
  rw [transferFault_of_rangeFault hcoords hrange, apply_ite Access.first]
  rfl

/-- Settles O45: each texel's accesses are the index byte and the CLUT word, checked in that order. -/
theorem indexedOutOfRangeFaults : Obligations.IndexedOutOfRangeFaults := by
  rintro a r c csa alpha s i op index clut x y hready hcoords hx hy (⟨rfl, rfl, rfl, rfl⟩ | ⟨rfl, rfl, rfl, rfl⟩) hout
    hbefore
  · exact checked_of_fault _ hready (transferFault_of_index_clut (index := texel8 a) (cell := cellOfTexel8 s.mem a)
      hcoords hx hy (fun _ => rfl) hout hbefore)
  · exact checked_of_fault _ hready (transferFault_of_index_clut (index := fun p => texel4 a p / 2)
      (cell := cellOfTexel4 s.mem a csa) hcoords hx hy (fun _ => rfl) hout hbefore)

end Sys2Proof.Machine
end

section
/-! PROOFS. The fault as a command's whole effect, and the steps on which no command runs: nothing is issued, or a
descriptor is short of its words (30_encoding.md R70; 60_exceptions.md R252, R257, R263, R269). -/

namespace Sys2Proof.Machine

/-! ### A command that faults (R257, R263) -/

/-- Of the effects of a command only a fault leaves a record in `FAULT`, and that record is its own (R257). -/
theorem Effect.eq_fault_of_apply_fault {e : Effect} {s : State} {k : FaultRecord} (hready : s.fault = none)
    (h : (e.apply s).fault = some k) : e = .fault k := by
  cases e with
  | done m r => cases hready.symm.trans h
  | unsupported => cases hready.symm.trans h
  | fault f => exact congrArg Effect.fault (Option.some.inj h)

/-- Settles O8: the command's effect is the fault itself, and that only sets `FAULT` and returns the code. -/
theorem faultingCommandChangesOnlyFault : Obligations.FaultingCommandChangesOnlyFault := by
  intro i s t k hexec hfault
  obtain ⟨e, he⟩ := exec_runsAs i
  obtain ⟨hready, rfl⟩ := he.eq_next.mp hexec
  rw [Effect.eq_fault_of_apply_fault hready hfault]
  rfl

/-! ### A descriptor short of its words (R70, log entry 8) -/

/-- The decoder finds no command in a descriptor that is short of its words, by no word at all or by some. -/
theorem decodeCommand_of_short {c : Command}
    (h : (∃ op, decodeWords c.words = .error (.truncated op)) ∨ c.words = []) :
    ∃ e, decodeCommand c = .error e ∧ (e = .noCommandWord ∨ ∃ op, e = .truncated op) := by
  obtain ⟨op, hshort⟩ | hnil := h
  · exact ⟨_, by simp only [decodeCommand, hshort], .inr ⟨op, rfl⟩⟩
  · exact ⟨_, by simp only [decodeCommand, hnil, decodeWords], .inl rfl⟩

/-- A ready engine refuses a short descriptor by name. -/
theorem rejectDescriptor_of_short {e : DecodeError} {s : State} (hready : s.fault = none)
    (h : e = .noCommandWord ∨ ∃ op, e = .truncated op) : rejectDescriptor e s = .refused .incompleteDescriptor := by
  obtain rfl | ⟨op, rfl⟩ := h <;> simp only [rejectDescriptor, hready]

/-- Settles O5: without a command the step idles; a short descriptor reaches the refusal of the decoder's error. -/
theorem stepWithoutACommand : Obligations.StepWithoutACommand := by
  refine ⟨fun _ => step_of_commands_nil, fun s c cs hcommands hready hshort => ?_⟩
  obtain ⟨e, hdec, he⟩ := decodeCommand_of_short hshort
  rw [step_of_decodeCommand_error (takeCommand_of_commands_cons hcommands) hdec]
  exact rejectDescriptor_of_short hready he

end Sys2Proof.Machine
end

section
/-! PROOFS. CLEAR takes an instance back to the `MEM` and the `FAULT` of a new one (42_transfer.md R213;
70_reset_and_hazards.md R281). -/

namespace Sys2Proof.Machine

/-- CLEAR completes on a ready instance alone, and leaves it with the `MEM` and the `FAULT` of construction (R281). -/
theorem exec_clear_mem_fault {s t : State} (h : exec .clear s = .next t) :
    t.mem = State.reset.mem ∧ t.fault = State.reset.fault := by
  obtain ⟨hready, rfl⟩ := execClear_runsAs.eq_next.mp h
  exact ⟨rfl, hready⟩

/-- Settles O29: a command's effect depends on `MEM`, `FAULT` and the input stream alone, and in these three the
cleared and the new instance agree. -/
theorem clearedInstanceIsLikeNew : Obligations.ClearedInstanceIsLikeNew := by
  intro i s t u hclear hexec
  obtain ⟨hmem, hfault⟩ := exec_clear_mem_fault hclear
  obtain ⟨v, r, hv, hvmem, hvfault, hu, hvresults⟩ :=
    effectDependsOnMemFaultInput i t u { State.reset with input := t.input } hmem.symm hfault.symm rfl hexec
  have hlast : v.results.getLast? = u.results.getLast? := by
    rw [hvresults, hu, List.getLast?_concat, List.getLast?_concat]
  exact ⟨v, hv, hvmem, hvfault, hlast⟩

end Sys2Proof.Machine
end
